-- ==== Sys2Proof/Word.lean ====
section
/-! DEFINITION. The word types of the 7700 Family (R8, R12): bytes, 16-bit words, 24-bit addresses, and the operand
width that flags m and x select (R33). -/

namespace Sys2Proof

/-- The addressable unit (R60). -/
abbrev Byte := BitVec 8

/-- A 16-bit register or datum (R8). -/
abbrev Word := BitVec 16

/-- A 24-bit address, bank in bits 23 to 16 (R60). -/
abbrev Addr := BitVec 24

/-- The operand width `w` of an instruction (R33). -/
inductive Width where
  | w8
  | w16
  deriving DecidableEq, Repr

/-- The width in bits. -/
def Width.bits : Width → Nat
  | .w8 => 8
  | .w16 => 16

end Sys2Proof
end

