-- ==== Sys2Proof/Machine/Bits.lean ====
section
/-! DEFINITION. The bit-field helpers of the machine: operands of width w held in words, addresses put together from a bank
and an offset, sign extension (R10 to R12). -/

namespace Sys2Proof.Machine

/-- `v mod 2^w`. -/
def trunc (w : Width) (v : Word) : Word :=
  match w with
  | .w8 => 0x00#8 ++ v.extractLsb' 0 8
  | .w16 => v

/-- `R[w-1:0] <- v`: the low `w` bits are replaced, the others stay (R31). -/
def merge (w : Width) (old v : Word) : Word :=
  match w with
  | .w8 => old.extractLsb' 8 8 ++ v.extractLsb' 0 8
  | .w16 => v

/-- `v[w-1]`. -/
def topBit (w : Width) (v : Word) : Bool :=
  match w with
  | .w8 => v.getLsbD 7
  | .w16 => v.getLsbD 15

/-- The natural number `n` as an operand of width `w`: `n mod 2^w`. -/
def ofNatW (w : Width) (n : Nat) : Word := BitVec.ofNat 16 (n % 2 ^ w.bits)

/-- The low byte of a word. -/
def loByte (v : Word) : Byte := v.extractLsb' 0 8

/-- The high byte of a word. -/
def hiByte (v : Word) : Byte := v.extractLsb' 8 8

/-- A byte as an operand of width 8. -/
def ofByte (v : Byte) : Word := 0x00#8 ++ v

/-- The 24-bit address `bank:offset` (R60). -/
def mkAddr (bank : Byte) (offset : Word) : Addr := bank ++ offset

/-- Bits 23 to 16 of an address. -/
def bankOf (a : Addr) : Byte := a.extractLsb' 16 8

/-- Bits 15 to 0 of an address. -/
def offsetOf (a : Addr) : Word := a.extractLsb' 0 16

/-- `sext_w` of an operand of width `w` (R11). -/
def signedW (w : Width) (v : Word) : Int :=
  if topBit w v then (trunc w v).toNat - 2 ^ w.bits else (trunc w v).toNat

/-- `sext_2w` of a number of width `2w`. -/
def signedDouble (w : Width) (n : Nat) : Int :=
  if 2 ^ (2 * w.bits - 1) ≤ n then (n : Int) - 2 ^ (2 * w.bits) else n

end Sys2Proof.Machine
end

