-- ==== Sys2Proof/Config.lean ====
section
/-! DEFINITION. What a product fixes and the spec leaves as parameters (R9, 92_eei_decisions.md D2, D6 to D9, D17, D18),
as plain data, and the free values that the spec leaves open (93_implementation_defined.md), as constants without a body. -/

namespace Sys2Proof

/-- What the platform places behind a range of addresses (R60, R77, R78, D6). -/
inductive RegionKind where
  /-- Reads give the last byte written. -/
  | ram
  /-- Reads as RAM does; writes are ignored or, where the platform says so, refused. -/
  | rom (refuses : Bool)
  /-- The registers of the device numbered `id`, with its own read and write functions (R77, R396). `words` says whether an
  aligned word reaches it in one access or in two, as on an 8-bit bus (R65). -/
  | device (id : Nat) (words : Bool)
  /-- Nothing: a read gives any value and a write is ignored or, where the platform says so, both are refused (log 10). -/
  | unmapped (refuses : Bool)
  deriving DecidableEq, Repr

/-- A range of `size` addresses from `base` on. -/
structure Region where
  base : Nat
  size : Nat
  kind : RegionKind
  deriving DecidableEq, Repr

/-- A hardware interrupt source: its vector address in bank 0 and whether flag I and the IPL mask it (R371, R379). -/
structure Source where
  vector : Word
  maskable : Bool
  deriving DecidableEq, Repr

/-- The parameters of one product. A step never changes them. -/
structure Platform where
  /-- Whether the five 7750 Series instructions exist (R2, R3). -/
  series7750 : Bool
  /-- The memory map; the first region that holds an address decides, and an address in none is RAM (D6). -/
  map : List Region
  /-- The interrupt sources; their order is the fixed order among equal levels, `tieBreak` (R379, R382). -/
  sources : List Source
  /-- Whether a masked request restarts the clock after WIT or STP (R364). -/
  maskedRequestWakes : Bool
  /-- Whether a block transfer can be interrupted between its steps (R248). -/
  blockMoveInterruptible : Bool
  /-- How many bytes after an instruction may already be in the queue (R421). -/
  queueReach : Nat
  deriving DecidableEq, Repr

/-- The CPU alone: 16M bytes of RAM (D6), no interrupt source (D7), the defaults of D9, D17 and D18. That the series is
the 7750 is a DESIGN CHOICE (log 7). -/
def Platform.default : Platform :=
  { series7750 := true, map := [], sources := [], maskedRequestWakes := false,
    blockMoveInterruptible := false, queueReach := 8 }

/-- A free value: a flag whose value the spec does not state, one for each draw and each use within it (D13). -/
opaque Config.freeBit : Nat → Nat → Bool

/-- A free value: a result the spec calls unpredictable or does not state (D13, D14). -/
opaque Config.freeWord : Nat → Nat → Word

/-- A free value: what a read where nothing is placed gives, one for each draw (D6). -/
opaque Config.freeByte : Nat → Byte

/-- The read function of the device `id` (R77, R396, D6): from the state of the devices, the draw that stands for the time,
the address and the width of the access, the state of the devices afterwards and the value, of which a byte access takes the
low byte. No body: a statement holds for every device. -/
opaque Config.deviceRead (id devices now : Nat) (a : Addr) (w : Width) : Nat × Word

/-- The write function of the device `id` (R77, R396, D6): the state of the devices after a write of the low `w` bits of
`v`. -/
opaque Config.deviceWrite (id devices now : Nat) (a : Addr) (w : Width) (v : Word) : Nat

end Sys2Proof
end

