-- ==== Sys2Proof/Syntax.lean ====
section
/-! DEFINITION. The instructions (R1, R2, R104 to R106): one constructor for each of the 108 instructions of
opcode_table.json; a row of the table is a constructor with one operand form (log 1). -/

namespace Sys2Proof

/-- The accumulator an instruction selects: A, or B with the prefix byte 42h (R95). -/
inductive Acc where
  | a
  | b
  deriving DecidableEq, Repr

/-- An immediate operand as it stands in the instruction: one byte, or two bytes low byte first (R98). -/
inductive Imm where
  | byte (v : Byte)
  | word (v : Word)
  deriving DecidableEq, Repr

/-- The memory addressing modes (R125 to R144). -/
inductive Mode where
  /-- Direct (R125). -/
  | dir (dd : Byte)
  /-- Direct indexed X (R127). -/
  | dirX (dd : Byte)
  /-- Direct indexed Y (R128). -/
  | dirY (dd : Byte)
  /-- Direct indirect (R129). -/
  | dirInd (dd : Byte)
  /-- Direct indexed X indirect (R130). -/
  | dirXInd (dd : Byte)
  /-- Direct indirect indexed Y (R131). -/
  | dirIndY (dd : Byte)
  /-- Direct indirect long (R132). -/
  | dirIndL (dd : Byte)
  /-- Direct indirect long indexed Y (R133). -/
  | dirIndLY (dd : Byte)
  /-- Absolute (R134). -/
  | abs (mmll : Word)
  /-- Absolute indexed X (R136). -/
  | absX (mmll : Word)
  /-- Absolute indexed Y (R137). -/
  | absY (mmll : Word)
  /-- Absolute long (R138). -/
  | absL (hhmmll : Addr)
  /-- Absolute long indexed X (R139). -/
  | absLX (hhmmll : Addr)
  /-- Stack pointer relative (R143). -/
  | sr (nn : Byte)
  /-- Stack pointer relative indirect indexed Y (R144). -/
  | srIndY (nn : Byte)
  deriving DecidableEq, Repr

/-- A source operand: an immediate (R123) or a memory operand. -/
inductive Src where
  | imm (i : Imm)
  | mem (md : Mode)
  deriving DecidableEq, Repr

/-- The operand of an instruction that changes it in place: an accumulator (R124) or a memory operand. -/
inductive Dst where
  | acc (acc : Acc)
  | mem (md : Mode)
  deriving DecidableEq, Repr

/-- The operand of JMP and JSR (R331, R332). -/
inductive Target where
  /-- Absolute (R134). -/
  | abs (mmll : Word)
  /-- Absolute long (R138). -/
  | absL (hhmmll : Addr)
  /-- Absolute indirect (R140). -/
  | ind (mmll : Word)
  /-- Absolute indirect long (R141). -/
  | indL (mmll : Word)
  /-- Absolute indexed X indirect (R142). -/
  | indX (mmll : Word)
  deriving DecidableEq, Repr

/-- The operand of BRA: a short or a long relative offset (R100, R146). -/
inductive Rel where
  | short (rr : Byte)
  | long (rr : Word)
  deriving DecidableEq, Repr

/-- The 108 instructions. -/
inductive Instr where
  -- load and store (41_load_store.md)
  | lda (acc : Acc) (src : Src)
  | ldm (md : Mode) (imm : Imm)
  | ldt (imm : Byte)
  | ldx (src : Src)
  | ldy (src : Src)
  | sta (acc : Acc) (md : Mode)
  | stx (md : Mode)
  | sty (md : Mode)
  -- register transfers (42_register_transfer.md)
  | tad
  | tas
  | tax
  | tay
  | tbd
  | tbs
  | tbx
  | tby
  | tda
  | tdb
  | tsa
  | tsb
  | tsx
  | txs
  | txy
  | txa
  | txb
  | tya
  | tyb
  | tyx
  | xab
  -- stack (43_stack.md)
  | psh (nn : Byte)
  | pul (nn : Byte)
  | pea (imm : Word)
  | pei (dd : Byte)
  | per (imm : Word)
  | pha
  | phb
  | phd
  | phg
  | php
  | pht
  | phx
  | phy
  | pla
  | plb
  | pld
  | plp
  | plt
  | plx
  | ply
  -- block transfer (44_block_transfer.md), destination bank first
  | mvn (n1 n2 : Byte)
  | mvp (n1 n2 : Byte)
  -- arithmetic (45_arithmetic.md)
  | adc (acc : Acc) (src : Src)
  | sbc (acc : Acc) (src : Src)
  | inc (dst : Dst)
  | dec (dst : Dst)
  | inx
  | iny
  | dex
  | dey
  | mpy (src : Src)
  | mpys (src : Src)
  | div (src : Src)
  | divs (src : Src)
  -- logic, compare, shift, rotate, extension (46_logic_compare_shift.md)
  | and (acc : Acc) (src : Src)
  | ora (acc : Acc) (src : Src)
  | eor (acc : Acc) (src : Src)
  | cmp (acc : Acc) (src : Src)
  | cpx (src : Src)
  | cpy (src : Src)
  | asl (dst : Dst)
  | asr (dst : Dst)
  | lsr (dst : Dst)
  | rol (dst : Dst)
  | ror (dst : Dst)
  | rla (imm : Imm)
  | exts (acc : Acc)
  | extz (acc : Acc)
  -- bits and flags (47_bit_and_flag.md)
  | clb (md : Mode) (imm : Imm)
  | seb (md : Mode) (imm : Imm)
  | clp (imm : Byte)
  | sep (imm : Byte)
  | clc
  | cli
  | clm
  | clv
  | sec
  | sei
  | sem
  -- jumps, branches, calls and returns (48_branch_return.md)
  | jmp (t : Target)
  | jsr (t : Target)
  | bra (rel : Rel)
  | bbc (md : Mode) (imm : Imm) (rr : Byte)
  | bbs (md : Mode) (imm : Imm) (rr : Byte)
  | bcc (rr : Byte)
  | bcs (rr : Byte)
  | beq (rr : Byte)
  | bmi (rr : Byte)
  | bne (rr : Byte)
  | bpl (rr : Byte)
  | bvc (rr : Byte)
  | bvs (rr : Byte)
  | rts
  | rtl
  | rti
  -- break, no operation, stop and wait (49_interrupt_special_other.md)
  | brk (nn : Byte)
  | nop
  | stp
  | wit
  deriving DecidableEq, Repr

end Sys2Proof
end

