-- ==== Sys2Proof/Machine/State.lean ====
section
/-! DEFINITION. The state of the machine (10_state.md), as plain data, its reset value (R48, R410), and the reasons a step
can stop. -/

namespace Sys2Proof.Machine

/-- The processor status register PS: eleven bits, one field for each flag and the level IPL (R30). -/
structure PS where
  /-- Carry, bit 0 (R36). -/
  c : Bool
  /-- Zero, bit 1 (R37). -/
  z : Bool
  /-- Interrupt disable, bit 2 (R39). -/
  i : Bool
  /-- Decimal mode, bit 3 (R40). -/
  d : Bool
  /-- Index register length, bit 4 (R41). -/
  x : Bool
  /-- Data length, bit 5 (R42). -/
  m : Bool
  /-- Overflow, bit 6 (R43). -/
  v : Bool
  /-- Negative, bit 7 (R44). -/
  n : Bool
  /-- Processor interrupt priority level, bits 10 to 8 (R45). -/
  ipl : BitVec 3
  deriving DecidableEq, Repr

/-- The run state (R49(a)). -/
inductive RunState where
  | running
  /-- After WIT (R363). -/
  | waiting
  /-- After STP (R362). -/
  | stopped
  deriving DecidableEq, Repr

/-- A pending interrupt request: the place of its source in the platform's list, and its level, if it has one (R378). -/
structure Request where
  source : Nat
  level : Option (BitVec 3)
  deriving DecidableEq, Repr

/-- The values that the spec leaves open at a reset (R410, D3): registers, flags, the bytes that RAM then holds, and the state
of the devices. -/
structure ResetArgs where
  a : Word
  b : Word
  x : Word
  y : Word
  sp : Word
  c : Bool
  z : Bool
  v : Bool
  n : Bool
  ram : List Host.Cell
  /-- The state of the devices (log 12). -/
  devices : Nat
  deriving DecidableEq, Repr

/-- What arrives from outside at one instruction boundary: a reset (R410), and the requests pending there (R378). -/
structure Input where
  reset : Option ResetArgs
  pending : List Request
  deriving DecidableEq, Repr

/-- What lies beyond the bus, and what the model notes of the accesses of a step. -/
structure Bus where
  /-- The state of all devices together, as `Config.deviceRead` and `Config.deviceWrite` see it (R77, R396; log 10). -/
  devices : Nat
  /-- The model's own: numbers the free values; each step and each read where nothing is placed takes a new one (log 8). -/
  draws : Nat
  /-- The model's own: the first address of the step whose access the platform refuses (D6, log 28). -/
  denied : Option Addr
  /-- The model's own: the addresses in devices that the step has written to, the latest first (R82, R421, log 15). -/
  written : List Addr
  deriving DecidableEq, Repr

/-- The machine. -/
structure State where
  /-- Accumulator A (R21). -/
  a : Word
  /-- Accumulator B (R22). -/
  b : Word
  /-- Index register X (R23). -/
  x : Word
  /-- Index register Y (R24). -/
  y : Word
  /-- Stack pointer S (R25). -/
  sp : Word
  /-- Program counter PC (R26). -/
  pc : Word
  /-- Program bank register PG (R27). -/
  pg : Byte
  /-- Data bank register DT (R28). -/
  dt : Byte
  /-- Direct page register DPR (R29). -/
  dpr : Word
  /-- Processor status register PS (R30). -/
  ps : PS
  /-- Memory: address and byte pairs, in the canonical form of `Memory.wf` (R60). -/
  mem : List Host.Cell
  /-- The run state (R49(a)). -/
  run : RunState
  /-- The reset is commanded and the reset vector is not yet read (R48, R410). -/
  inReset : Bool
  /-- What arrives at the coming boundaries, the next one first; none after the end of the list (R49(b), R378). -/
  inputs : List Input
  /-- The product (R9, R78, R379). No step changes it. -/
  plat : Platform
  /-- The devices, and what the model notes of the accesses of a step (R77). -/
  bus : Bus
  /-- The model's own: the instruction transferred control, as R421 asks (log 15). -/
  jumped : Bool
  /-- The model's own: the addresses changed within the queue's reach since control was last transferred (R82, R421,
  log 15). -/
  stale : List Addr
  deriving DecidableEq, Repr

/-- The machine has no fault: no access, protection, alignment or illegal-instruction exception exists (R79, R370), so
nothing raises one. BRK, zero division, interrupts and reset are next states (log 25). Safe. -/
inductive Fault
  deriving DecidableEq, Repr

/-- The outcomes in which the model claims nothing about the hardware. Each is safe: no statement about a next state holds
of it. -/
inductive Refusal where
  /-- An instruction that has no meaning yet; no arm of `exec` raises it. Safe. -/
  | notModelled (mnemonic : String)
  /-- `step`, at bytes that are no instruction (R109, D1). Safe. -/
  | illegalOpcode (ia : Addr) (bytes : List Byte)
  /-- MVN and MVP, where the block would pass the end or the start of a bank (R247, D15). Safe. -/
  | blockCrossesBank
  /-- MVN and MVP with x = 1 and XH or YH not 00h (R245, D15). Safe. -/
  | blockIndexHighByte
  /-- `step`, where execution runs on, without a transfer of control, into a byte that an instruction has changed while the
  byte may have been prefetched (R82, R421, D18). Safe. -/
  | storeIntoPrefetch
  /-- `step`, where an access falls on an address at which the platform refuses it (D6, log 28). Safe. -/
  | accessRefused (a : Addr)
  deriving DecidableEq, Repr

/-- The machine at reset (R48): PC = FFFEh until the vector is read. A, B, X, Y, S (log 4), C, Z, V, N (log 5) and memory
(log 6) and the devices (log 10) have no reset value in the spec: DESIGN CHOICE, zero. -/
def State.reset : State :=
  { a := 0x0000#16, b := 0x0000#16, x := 0x0000#16, y := 0x0000#16, sp := 0x0000#16,
    pc := 0xFFFE#16, pg := 0x00#8, dt := 0x00#8, dpr := 0x0000#16,
    ps := { c := false, z := false, i := true, d := false, x := false, m := false, v := false, n := false,
            ipl := 0#3 },
    mem := [], run := .running, inReset := true, inputs := [], plat := Platform.default,
    bus := { devices := 0, draws := 0, denied := none, written := [] }, jumped := false, stale := [] }

end Sys2Proof.Machine
end

