-- ==== Sys2Proof/Machine/Flags.lean ====
section
/-! DEFINITION. The processor status register as a word (R30), the operand widths it selects (R33), and every flag
computation: N and Z (R38), binary and decimal sums (R250, R251), comparison (R283), shifts and rotates (R288 to R293). -/

namespace Sys2Proof.Machine

/-! ## PS as a word -/

/-- The low byte of PS: N V m x D I Z C from bit 7 to bit 0 (R30). -/
def PS.low (p : PS) : Byte :=
  BitVec.ofBool p.n ++ BitVec.ofBool p.v ++ BitVec.ofBool p.m ++ BitVec.ofBool p.x ++
    BitVec.ofBool p.d ++ BitVec.ofBool p.i ++ BitVec.ofBool p.z ++ BitVec.ofBool p.c

/-- PS as it is stored: bits 15 to 11 are 0 (R30, D16). -/
def PS.toWord (p : PS) : Word := 0#5 ++ p.ipl ++ p.low

/-- PS with its low byte replaced; IPL stays (R313). -/
def PS.withLow (p : PS) (v : Byte) : PS :=
  { p with c := v.getLsbD 0, z := v.getLsbD 1, i := v.getLsbD 2, d := v.getLsbD 3,
           x := v.getLsbD 4, m := v.getLsbD 5, v := v.getLsbD 6, n := v.getLsbD 7 }

/-- PS as it is loaded: bits 10 to 0 of the word; bits 15 to 11 are ignored (R30, D16). -/
def PS.ofWord (v : Word) : PS :=
  { c := v.getLsbD 0, z := v.getLsbD 1, i := v.getLsbD 2, d := v.getLsbD 3,
    x := v.getLsbD 4, m := v.getLsbD 5, v := v.getLsbD 6, n := v.getLsbD 7, ipl := v.extractLsb' 8 3 }

/-- The width that flag m selects (R33). -/
def PS.wm (p : PS) : Width := if p.m then .w8 else .w16

/-- The width that flag x selects (R33). -/
def PS.wx (p : PS) : Width := if p.x then .w8 else .w16

/-! ## N and Z -/

/-- `v mod 2^w = 0`. -/
def isZero (w : Width) (v : Word) : Bool := decide (trunc w v = 0x0000#16)

/-- `SetNZ_w(v)` (R38). -/
def PS.setNZ (p : PS) (w : Width) (v : Word) : PS := { p with n := topBit w v, z := isZero w v }

/-! ## Sums -/

/-- The result of an addition or a subtraction. -/
structure Sum where
  result : Word
  carry : Bool
  overflow : Bool
  deriving DecidableEq, Repr

/-- `AddBin_w` (R250), on operands of width `w`. -/
def addBin (w : Width) (a b : Word) (c : Bool) : Sum :=
  let total := a.toNat + b.toNat + c.toNat
  let r := ofNatW w total
  { result := r, carry := decide (2 ^ w.bits ≤ total),
    overflow := topBit w a == topBit w b && topBit w r != topBit w a }

/-- Binary subtraction `a - b - (1 - c)` (R250). -/
def subBin (w : Width) (a b : Word) (c : Bool) : Sum := addBin w a (trunc w (~~~b)) c

/-- Decimal digit `k` of a binary-coded decimal word. -/
def digit (v : Word) (k : Nat) : Nat := v.toNat / 16 ^ k % 16

/-- The number of decimal digits of an operand (R251). -/
def digitCount : Width → Nat
  | .w8 => 2
  | .w16 => 4

/-- Whether every digit of the operand is 0 to 9 (R251). -/
def isBcd (w : Width) (v : Word) : Bool := (List.range (digitCount w)).all fun k => decide (digit v k < 10)

/-- `dec`: the number that a binary-coded decimal operand stands for (R251). -/
def decValue (w : Width) (v : Word) : Nat :=
  match w with
  | .w8 => digit v 0 + 10 * digit v 1
  | .w16 => digit v 0 + 10 * digit v 1 + 100 * digit v 2 + 1000 * digit v 3

/-- `bcd`: a number below 10000 as a binary-coded decimal word (R251). -/
def bcdWord (n : Nat) : Word :=
  BitVec.ofNat 16 (n % 10 + 16 * (n / 10 % 10) + 256 * (n / 100 % 10) + 4096 * (n / 1000 % 10))

/-- `10^k` for an operand of `k` digits (R251). -/
def decLimit (w : Width) : Nat := 10 ^ digitCount w

/-- `AddDec_w` on valid operands: the result and the carry (R251). -/
def addDec (w : Width) (a b : Word) (c : Bool) : Word × Bool :=
  let total := decValue w a + decValue w b + c.toNat
  (bcdWord (total % decLimit w), decide (decLimit w ≤ total))

/-- `SubDec_w` on valid operands: the result and the carry, 1 when there is no borrow (R251). -/
def subDec (w : Width) (a b : Word) (c : Bool) : Word × Bool :=
  let taken := decValue w b + (!c).toNat
  (bcdWord ((decValue w a + decLimit w - taken) % decLimit w), decide (taken ≤ decValue w a))

/-! ## Comparison -/

/-- `Compare_w(a, b)` (R283), on operands of width `w`. -/
def PS.compare (p : PS) (w : Width) (a b : Word) : PS :=
  let r := ofNatW w (a.toNat + 2 ^ w.bits - b.toNat)
  { p with n := topBit w r, z := isZero w r, c := decide (b.toNat ≤ a.toNat) }

/-! ## Shifts and rotates: the result and the new carry, from an operand of width `w` and the old carry -/

/-- ASL (R288). -/
def shiftAsl (w : Width) (v : Word) (_ : Bool) : Word × Bool := (ofNatW w (v.toNat * 2), topBit w v)

/-- ASR (R289). -/
def shiftAsr (w : Width) (v : Word) (_ : Bool) : Word × Bool :=
  (ofNatW w (v.toNat / 2 + (topBit w v).toNat * 2 ^ (w.bits - 1)), v.getLsbD 0)

/-- LSR (R290). -/
def shiftLsr (w : Width) (v : Word) (_ : Bool) : Word × Bool := (ofNatW w (v.toNat / 2), v.getLsbD 0)

/-- ROL (R291). -/
def shiftRol (w : Width) (v : Word) (c : Bool) : Word × Bool := (ofNatW w (v.toNat * 2 + c.toNat), topBit w v)

/-- ROR (R292). -/
def shiftRor (w : Width) (v : Word) (c : Bool) : Word × Bool :=
  (ofNatW w (v.toNat / 2 + c.toNat * 2 ^ (w.bits - 1)), v.getLsbD 0)

/-- RLA: rotation by `n` bits in the operand itself (R293). -/
def rotateLeft (w : Width) (v : Word) (n : Nat) : Word :=
  let k := n % w.bits
  ofNatW w (v.toNat * 2 ^ k % 2 ^ w.bits + v.toNat / 2 ^ (w.bits - k))

/-- PS after a shift (R287). -/
def PS.shifted (p : PS) (w : Width) (r : Word × Bool) : PS :=
  { p with n := topBit w r.1, z := isZero w r.1, c := r.2 }

end Sys2Proof.Machine
end

