-- ==== Sys2Proof/Machine/Ops.lean ====
section
/-! DEFINITION. The named operations: memory (R60 to R63, R78), registers (R31), the stack (R69 to R74), transfers of
control (R26, R27), taking an exception (R372) and returning from one (R347). -/

namespace Sys2Proof.Machine

/-! ## Memory -/

/-- What a byte reads as that nothing has written. DESIGN CHOICE (log 6). -/
def unlistedByte : Byte := 0x00#8

/-- The byte at an address. -/
def Memory.read (mem : List Host.Cell) (a : Nat) : Byte :=
  match mem with
  | [] => unlistedByte
  | (k, v) :: rest => if k = a then v else Memory.read rest a

/-- `mem` with the byte at `a` replaced; addresses stay in rising order and no entry equals `unlistedByte`. -/
def Memory.write (mem : List Host.Cell) (a : Nat) (b : Byte) : List Host.Cell :=
  match mem with
  | [] => if b = unlistedByte then [] else [(a, b)]
  | (k, v) :: rest =>
    if a < k then (if b = unlistedByte then (k, v) :: rest else (a, b) :: (k, v) :: rest)
    else if a = k then (if b = unlistedByte then rest else (a, b) :: rest)
    else (k, v) :: Memory.write rest a b

/-- The canonical form from the address `lo` on. -/
def Memory.wfFrom (lo : Nat) (mem : List Host.Cell) : Bool :=
  match mem with
  | [] => true
  | (k, v) :: rest =>
    decide (lo ≤ k) && decide (k < 2 ^ 24) && decide (v ≠ unlistedByte) && Memory.wfFrom (k + 1) rest

/-- The canonical form: addresses strictly rising and below 2^24, no entry equal to what an unlisted address reads as. -/
def Memory.wf (mem : List Host.Cell) : Bool := Memory.wfFrom 0 mem

/-- What the platform has placed at an address: its first region that holds it, else RAM (R78, D6). -/
def regionKind (p : Platform) (a : Addr) : RegionKind :=
  match p.map.find? fun r => decide (r.base ≤ a.toNat) && decide (a.toNat < r.base + r.size) with
  | some r => r.kind
  | none => .ram

/-- Memory after a store of one byte: only RAM keeps it (R78, D6, log 10). -/
def storeByte (p : Platform) (mem : List Host.Cell) (a : Addr) (v : Byte) : List Host.Cell :=
  match regionKind p a with
  | .ram => Memory.write mem a.toNat v
  | .rom _ => mem
  | .device _ _ => mem
  | .unmapped _ => mem

/-- The device that an access of a word at `a` reaches in one access: the address is even, and both bytes belong to one
device that takes words (R65, D19). -/
def wordDevice (p : Platform) (a : Addr) : Option Nat :=
  match regionKind p a with
  | .ram => none
  | .rom _ => none
  | .device id words =>
    if words && !a.getLsbD 0 && decide (regionKind p (a + 1#24) = .device id words) then some id else none
  | .unmapped _ => none

/-! ### The bus: what an access leaves beyond memory -/

/-- The platform refuses an access; the first address of a step is kept (D6, log 28). -/
def Bus.deny (bus : Bus) (refuses : Bool) (a : Addr) : Bus :=
  { bus with denied := if refuses && bus.denied.isNone then some a else bus.denied }

/-- The bus after a read of one byte (R77). -/
def Bus.afterRead8 (bus : Bus) (p : Platform) (a : Addr) : Bus :=
  match regionKind p a with
  | .ram => bus
  | .rom _ => bus
  | .device id _ => { bus with devices := (Config.deviceRead id bus.devices bus.draws a .w8).1 }
  | .unmapped refuses => { bus.deny refuses a with draws := bus.draws + 1 }

/-- The bus after a read of two bytes: one access of a device, or two (R65, R77). -/
def Bus.afterRead16 (bus : Bus) (p : Platform) (a : Addr) : Bus :=
  match wordDevice p a with
  | some id => { bus with devices := (Config.deviceRead id bus.devices bus.draws a .w16).1 }
  | none => (bus.afterRead8 p a).afterRead8 p (a + 1#24)

/-- The bus after a write of one byte (R77). -/
def Bus.afterWrite8 (bus : Bus) (p : Platform) (a : Addr) (v : Byte) : Bus :=
  match regionKind p a with
  | .ram => bus
  | .rom refuses => bus.deny refuses a
  | .device id _ =>
    { bus with devices := Config.deviceWrite id bus.devices bus.draws a .w8 (ofByte v), written := a :: bus.written }
  | .unmapped refuses => bus.deny refuses a

/-- The bus after a write of two bytes, low byte first (R65, R77). -/
def Bus.afterWrite16 (bus : Bus) (p : Platform) (a : Addr) (v : Word) : Bus :=
  match wordDevice p a with
  | some id =>
    { bus with
      devices := Config.deviceWrite id bus.devices bus.draws a .w16 v, written := (a + 1#24) :: a :: bus.written }
  | none => (bus.afterWrite8 p a (loByte v)).afterWrite8 p (a + 1#24) (hiByte v)

/-! ### Reads: the value, and the state after the read, in which the next access happens -/

/-- `MemRead(a, 1)` (R62): the value. -/
def State.read8 (s : State) (a : Addr) : Byte :=
  match regionKind s.plat a with
  | .ram => Memory.read s.mem a.toNat
  | .rom _ => Memory.read s.mem a.toNat
  | .device id _ => loByte (Config.deviceRead id s.bus.devices s.bus.draws a .w8).2
  | .unmapped _ => Config.freeByte s.bus.draws

/-- The state after `MemRead(a, 1)`. -/
def State.after8 (s : State) (a : Addr) : State := { s with bus := s.bus.afterRead8 s.plat a }

/-- `MemRead(a, 2)`: low byte first, the next address modulo 2^24 (R61, R62, R65). -/
def State.read16 (s : State) (a : Addr) : Word :=
  match wordDevice s.plat a with
  | some id => (Config.deviceRead id s.bus.devices s.bus.draws a .w16).2
  | none => (s.after8 a).read8 (a + 1#24) ++ s.read8 a

/-- The state after `MemRead(a, 2)`. -/
def State.after16 (s : State) (a : Addr) : State := { s with bus := s.bus.afterRead16 s.plat a }

/-- `MemRead(a, 3)` (R62): a word and then a byte (log 10). -/
def State.read24 (s : State) (a : Addr) : Addr := (s.after16 a).read8 (a + 2#24) ++ s.read16 a

/-- The state after `MemRead(a, 3)`. -/
def State.after24 (s : State) (a : Addr) : State := (s.after16 a).after8 (a + 2#24)

/-- `MemRead(a, w/8)`. -/
def State.readW (s : State) (w : Width) (a : Addr) : Word :=
  match w with
  | .w8 => ofByte (s.read8 a)
  | .w16 => s.read16 a

/-- The state after `MemRead(a, w/8)`. -/
def State.afterW (s : State) (w : Width) (a : Addr) : State :=
  match w with
  | .w8 => s.after8 a
  | .w16 => s.after16 a

/-! ### Writes -/

/-- `MemWrite(a, 1, v)` (R63). -/
def State.write8 (s : State) (a : Addr) (v : Byte) : State :=
  { s with mem := storeByte s.plat s.mem a v, bus := s.bus.afterWrite8 s.plat a v }

/-- `MemWrite(a, 2, v)`, low byte first (R63, R65). -/
def State.write16 (s : State) (a : Addr) (v : Word) : State :=
  { s with
    mem := storeByte s.plat (storeByte s.plat s.mem a (loByte v)) (a + 1#24) (hiByte v)
    bus := s.bus.afterWrite16 s.plat a v }

/-- `MemWrite(a, w/8, v)`. -/
def State.writeW (s : State) (w : Width) (a : Addr) (v : Word) : State :=
  match w with
  | .w8 => s.write8 a (loByte v)
  | .w16 => s.write16 a v

/-! ## Registers -/

/-- The width that flag m selects now (R33). -/
def State.wm (s : State) : Width := s.ps.wm

/-- The width that flag x selects now (R33). -/
def State.wx (s : State) : Width := s.ps.wx

/-- `Acc`, all 16 bits. -/
def State.acc (s : State) (r : Acc) : Word :=
  match r with
  | .a => s.a
  | .b => s.b

/-- `Acc[w-1:0]`. -/
def State.accW (s : State) (r : Acc) (w : Width) : Word := trunc w (s.acc r)

/-- `Acc[w-1:0] <- v` (R31). -/
def State.setAcc (s : State) (r : Acc) (w : Width) (v : Word) : State :=
  { s with
    a := match r with
      | .a => merge w s.a v
      | .b => s.a
    b := match r with
      | .a => s.b
      | .b => merge w s.b v }

/-- `X[wx-1:0] <- v` (R31). -/
def State.setX (s : State) (v : Word) : State := { s with x := merge s.wx s.x v }

/-- `Y[wx-1:0] <- v` (R31). -/
def State.setY (s : State) (v : Word) : State := { s with y := merge s.wx s.y v }

/-- `SetNZ_w(v)` (R38). -/
def State.setNZ (s : State) (w : Width) (v : Word) : State := { s with ps := s.ps.setNZ w v }

/-! ## The program counter -/

/-- `PG:PC` (R26). -/
def State.next (s : State) : Addr := mkAddr s.pg s.pc

/-- `PG:PC <- a` in sequence: no transfer of control (R68). -/
def State.setNext (s : State) (a : Addr) : State := { s with pg := bankOf a, pc := offsetOf a }

/-- A transfer of control to `pg:pc`. -/
def State.jumpTo (s : State) (pg : Byte) (pc : Word) : State := { s with pg := pg, pc := pc, jumped := true }

/-- A relative transfer: the 24-bit sum of the next instruction's address and a signed offset (R146, R330(c)). -/
def State.branch (s : State) (offset : Addr) : State :=
  s.jumpTo (bankOf (s.next + offset)) (offsetOf (s.next + offset))

/-- A conditional relative branch with a one-byte offset (R336 to R343). -/
def State.branchIf (s : State) (taken : Bool) (rr : Byte) : State :=
  if taken then s.branch (rr.signExtend 24) else s

/-! ## The stack -/

/-- `00h:S` (R69). -/
def stackAddr (sp : Word) : Addr := mkAddr 0x00#8 sp

/-- `Push8(v)` (R70). -/
def State.push8 (s : State) (v : Byte) : State :=
  { s.write8 (stackAddr s.sp) v with sp := s.sp - 1#16 }

/-- The bus after `Push16(v)` at S = `sp`: an aligned word of a device is one access at `S - 1`; any other push is two, in
the order of R71 (R65, R233, log 29). -/
def Bus.afterPush16 (bus : Bus) (p : Platform) (sp : Word) (v : Word) : Bus :=
  match wordDevice p (stackAddr (sp - 1#16)) with
  | some _ => bus.afterWrite16 p (stackAddr (sp - 1#16)) v
  | none => (bus.afterWrite8 p (stackAddr sp) (hiByte v)).afterWrite8 p (stackAddr (sp - 1#16)) (loByte v)

/-- `Push16(v)`: high byte first (R71). -/
def State.push16 (s : State) (v : Word) : State :=
  { (s.push8 (hiByte v)).push8 (loByte v) with bus := s.bus.afterPush16 s.plat s.sp v }

/-- `Push16` or, at width 8, `Push8` of the low byte (R211). -/
def State.pushW (s : State) (w : Width) (v : Word) : State :=
  match w with
  | .w8 => s.push8 (loByte v)
  | .w16 => s.push16 v

/-- The value that `Pull8()` gives (R72). -/
def State.top8 (s : State) : Byte := s.read8 (stackAddr (s.sp + 1#16))

/-- The state after `Pull8()` (R72). -/
def State.drop8 (s : State) : State := { s.after8 (stackAddr (s.sp + 1#16)) with sp := s.sp + 1#16 }

/-- The value that `Pull16()` gives: two bytes, the low one first, or one access of a device (R73, R65, R233). -/
def State.top16 (s : State) : Word :=
  match wordDevice s.plat (stackAddr (s.sp + 1#16)) with
  | some _ => s.read16 (stackAddr (s.sp + 1#16))
  | none => s.drop8.top8 ++ s.top8

/-- The bus after `Pull16()` at S = `sp` (R65, R233). -/
def Bus.afterPull16 (bus : Bus) (p : Platform) (sp : Word) : Bus :=
  match wordDevice p (stackAddr (sp + 1#16)) with
  | some _ => bus.afterRead16 p (stackAddr (sp + 1#16))
  | none => (bus.afterRead8 p (stackAddr (sp + 1#16))).afterRead8 p (stackAddr (sp + 1#16 + 1#16))

/-- The state after `Pull16()` (R73). -/
def State.drop16 (s : State) : State := { s.drop8.drop8 with bus := s.bus.afterPull16 s.plat s.sp }

/-- The value that a pull of width `w` gives (R211). -/
def State.topW (s : State) (w : Width) : Word :=
  match w with
  | .w8 => ofByte s.top8
  | .w16 => s.top16

/-- The state after a pull of width `w`. -/
def State.dropW (s : State) (w : Width) : State :=
  match w with
  | .w8 => s.drop8
  | .w16 => s.drop16

/-! ## Exceptions -/

/-- The vector of BRK (R78, R371). -/
def vectorBrk : Word := 0xFFFA#16

/-- The vector of zero division (R78, R371). -/
def vectorZeroDivision : Word := 0xFFFC#16

/-- The vector of reset (R78, R371). -/
def vectorReset : Word := 0xFFFE#16

/-- The address of a vector: in bank 0 (R371, D20). -/
def vectorAddr (vec : Word) : Addr := mkAddr 0x00#8 vec

/-- `PC <- MemRead(00h:vec, 2)` (R371, R372, R410). -/
def State.loadVector (s : State) (vec : Word) : State :=
  { s.after16 (vectorAddr vec) with pc := s.read16 (vectorAddr vec) }

/-- PS in a handler: I set, IPL replaced if the event has a level (R372). -/
def PS.entered (p : PS) (level : Option (BitVec 3)) : PS := { p with i := true, ipl := level.getD p.ipl }

/-- The pushes of an entry: PG, PC and PS as it was (R372). -/
def State.pushFrame (s : State) (ret : Addr) : State :=
  ((s.push8 (bankOf ret)).push16 (offsetOf ret)).push16 s.ps.toWord

/-- `Enter(ret, vec, level)`: TAKING AN EXCEPTION (R372). The vector is read after the pushes. -/
def State.enter (s : State) (ret : Addr) (vec : Word) (level : Option (BitVec 3)) : State :=
  let t := s.pushFrame ret
  ({ t with ps := t.ps.entered level, pg := 0x00#8, jumped := true } : State).loadVector vec

/-- RETURN FROM AN EXCEPTION: PS, PC and PG are pulled, in this order (R347, R377). -/
def State.leave (s : State) : State :=
  let t := s.drop16
  let u := t.drop16
  { u.drop8 with ps := PS.ofWord s.top16, pc := t.top16, pg := u.top8, jumped := true }

/-- PC loaded from the reset vector, "after removing reset status" (R48, R410). -/
def State.loadResetVector (s : State) : State := { s.loadVector vectorReset with inReset := false, stale := [] }

end Sys2Proof.Machine
end

