-- ==== Sys2Proof/Machine/Operands.lean ====
section
/-! DEFINITION. Every operand form: index values (R150), the effective address of each memory mode (R125 to R144), operands
read and written (R160), the targets of JMP and JSR (R331, R332). -/

namespace Sys2Proof.Machine

/-- `Xe` (R150): X at the width of flag x, zero extended. -/
def State.indexX (s : State) : Word := trunc s.wx s.x

/-- `Ye` (R150). -/
def State.indexY (s : State) : Word := trunc s.wx s.y

/-- A word as a 24-bit number. -/
def wide (v : Word) : Addr := v.setWidth 24

/-- `DPR + dd`: in bank 0 or 1 (R125, R151). -/
def State.direct (s : State) (dd : Byte) : Addr := wide s.dpr + dd.setWidth 24

/-- `S + nn`: in bank 0 or 1 (R143). -/
def State.stackRel (s : State) (nn : Byte) : Addr := wide s.sp + nn.setWidth 24

/-- `EA` of a memory mode; every sum is one of 24 bits (R66, R67, R125 to R144, R153). -/
def State.ea (s : State) (md : Mode) : Addr :=
  match md with
  | .dir dd => s.direct dd
  | .dirX dd => s.direct dd + wide s.indexX
  | .dirY dd => s.direct dd + wide s.indexY
  | .dirInd dd => mkAddr s.dt (s.read16 (s.direct dd))
  | .dirXInd dd => mkAddr s.dt (s.read16 (s.direct dd + wide s.indexX))
  | .dirIndY dd => mkAddr s.dt (s.read16 (s.direct dd)) + wide s.indexY
  | .dirIndL dd => s.read24 (s.direct dd)
  | .dirIndLY dd => s.read24 (s.direct dd) + wide s.indexY
  | .abs mmll => mkAddr s.dt mmll
  | .absX mmll => mkAddr s.dt mmll + wide s.indexX
  | .absY mmll => mkAddr s.dt mmll + wide s.indexY
  | .absL hhmmll => hhmmll
  | .absLX hhmmll => hhmmll + wide s.indexX
  | .sr nn => s.stackRel nn
  | .srIndY nn => mkAddr s.dt (s.read16 (s.stackRel nn)) + wide s.indexY

/-- The state after the pointer of a memory mode is read, if it has one (R77, R129 to R133, R144). -/
def State.afterEa (s : State) (md : Mode) : State :=
  match md with
  | .dir _ => s
  | .dirX _ => s
  | .dirY _ => s
  | .dirInd dd => s.after16 (s.direct dd)
  | .dirXInd dd => s.after16 (s.direct dd + wide s.indexX)
  | .dirIndY dd => s.after16 (s.direct dd)
  | .dirIndL dd => s.after24 (s.direct dd)
  | .dirIndLY dd => s.after24 (s.direct dd)
  | .abs _ => s
  | .absX _ => s
  | .absY _ => s
  | .absL _ => s
  | .absLX _ => s
  | .sr _ => s
  | .srIndY nn => s.after16 (s.stackRel nn)

/-- A memory operand of width `w`: the pointer is read first (R160). -/
def State.memOperand (s : State) (w : Width) (md : Mode) : Word := (s.afterEa md).readW w (s.ea md)

/-- The state after a memory operand is read. -/
def State.afterMem (s : State) (w : Width) (md : Mode) : State := (s.afterEa md).afterW w (s.ea md)

/-- A memory operand written without being read (R160, R167). -/
def State.storeMem (s : State) (w : Width) (md : Mode) (v : Word) : State := (s.afterEa md).writeW w (s.ea md) v

/-- A memory operand written after it is read, at the same address: one read, one write (R76). -/
def State.updateMem (s : State) (w : Width) (md : Mode) (v : Word) : State := (s.afterMem w md).writeW w (s.ea md) v

/-- An immediate as an operand of width `w` (R98, R123). -/
def immValue (w : Width) (i : Imm) : Word :=
  match i with
  | .byte v => ofByte v
  | .word v => trunc w v

/-- `Operand(w)` (R160). -/
def State.operand (s : State) (w : Width) (src : Src) : Word :=
  match src with
  | .imm i => immValue w i
  | .mem md => s.memOperand w md

/-- The state after `Operand(w)` is read (R77). -/
def State.afterOperand (s : State) (w : Width) (src : Src) : State :=
  match src with
  | .imm _ => s
  | .mem md => s.afterMem w md

/-- The old value of an operand that is changed in place (R76, R287). -/
def State.readDst (s : State) (w : Width) (dst : Dst) : Word :=
  match dst with
  | .acc r => s.accW r w
  | .mem md => s.memOperand w md

/-- The new value of an operand that is changed in place, after its old value is read (R76, R287). -/
def State.writeDst (s : State) (w : Width) (dst : Dst) (v : Word) : State :=
  match dst with
  | .acc r => s.setAcc r w v
  | .mem md => s.updateMem w md v

/-- The bank and the program counter that JMP and JSR load; the pointers of the indirect forms are in bank PG (R331). -/
def State.target (s : State) (t : Target) : Byte × Word :=
  match t with
  | .abs mmll => (s.pg, mmll)
  | .absL hhmmll => (bankOf hhmmll, offsetOf hhmmll)
  | .ind mmll => (s.pg, s.read16 (mkAddr s.pg mmll))
  | .indL mmll => (bankOf (s.read24 (mkAddr s.pg mmll)), offsetOf (s.read24 (mkAddr s.pg mmll)))
  | .indX mmll => (s.pg, s.read16 (mkAddr s.pg mmll + wide s.indexX))

/-- The state after the pointer of JMP or JSR is read, if the form has one. -/
def State.afterTarget (s : State) (t : Target) : State :=
  match t with
  | .abs _ => s
  | .absL _ => s
  | .ind mmll => s.after16 (mkAddr s.pg mmll)
  | .indL mmll => s.after24 (mkAddr s.pg mmll)
  | .indX mmll => s.after16 (mkAddr s.pg mmll + wide s.indexX)

/-- Control goes to the target, the pointer being read first (R331, R332). -/
def State.goTo (s : State) (t : Target) : State := (s.afterTarget t).jumpTo (s.target t).1 (s.target t).2

end Sys2Proof.Machine
end

