-- ==== Sys2Proof/Machine/Arith.lean ====
section
/-! DEFINITION. Arithmetic instructions (45_arithmetic.md). -/

namespace Sys2Proof.Machine

/-! ## Addition and subtraction -/

/-- ADC and SBC with D = 0: the accumulator, C, V, N and Z (R252, R253). -/
def State.setSum (s : State) (r : Acc) (w : Width) (out : Sum) : State :=
  let t := s.setAcc r w out.result
  { t with ps := { t.ps.setNZ w out.result with c := out.carry, v := out.overflow } }

/-- ADC with D = 1 (R251, R252): N, V and Z are free; with a digit above 9 the result and C are free too (D13, log 8). -/
def State.addDecimal (s : State) (r : Acc) (w : Width) (b : Word) : State :=
  let a := s.accW r w
  let out := addDec w a b s.ps.c
  let ok := isBcd w a && isBcd w b
  let t := s.setAcc r w (if ok then out.1 else Config.freeWord s.bus.draws 0)
  { t with ps := { t.ps with
      n := Config.freeBit s.bus.draws 0, v := Config.freeBit s.bus.draws 1, z := Config.freeBit s.bus.draws 2
      c := if ok then out.2 else Config.freeBit s.bus.draws 3 } }

/-- SBC with D = 1 (R251, R253): N and V are free; with a digit above 9 the result, C and Z are free too. -/
def State.subDecimal (s : State) (r : Acc) (w : Width) (b : Word) : State :=
  let a := s.accW r w
  let out := subDec w a b s.ps.c
  let ok := isBcd w a && isBcd w b
  let t := s.setAcc r w (if ok then out.1 else Config.freeWord s.bus.draws 0)
  { t with ps := { t.ps with
      n := Config.freeBit s.bus.draws 0, v := Config.freeBit s.bus.draws 1
      z := if ok then isZero w out.1 else Config.freeBit s.bus.draws 2
      c := if ok then out.2 else Config.freeBit s.bus.draws 3 } }

/-- ADC (R252). -/
def execAdc (r : Acc) (src : Src) (s : State) : Host.Outcome State Fault Refusal :=
  if s.ps.d then .next ((s.afterOperand s.wm src).addDecimal r s.wm (s.operand s.wm src))
  else .next ((s.afterOperand s.wm src).setSum r s.wm (addBin s.wm (s.accW r s.wm) (s.operand s.wm src) s.ps.c))

/-- SBC (R253). -/
def execSbc (r : Acc) (src : Src) (s : State) : Host.Outcome State Fault Refusal :=
  if s.ps.d then .next ((s.afterOperand s.wm src).subDecimal r s.wm (s.operand s.wm src))
  else .next ((s.afterOperand s.wm src).setSum r s.wm (subBin s.wm (s.accW r s.wm) (s.operand s.wm src) s.ps.c))

/-! ## Increment and decrement -/

/-- `(v + 1) mod 2^w`. -/
def plusOne (w : Width) (v : Word) : Word := trunc w (v + 1#16)

/-- `(v - 1) mod 2^w`. -/
def minusOne (w : Width) (v : Word) : Word := trunc w (v - 1#16)

/-- INC (R254). -/
def execInc (dst : Dst) (s : State) : Host.Outcome State Fault Refusal :=
  let r := plusOne s.wm (s.readDst s.wm dst)
  .next ((s.writeDst s.wm dst r).setNZ s.wm r)

/-- DEC (R255). -/
def execDec (dst : Dst) (s : State) : Host.Outcome State Fault Refusal :=
  let r := minusOne s.wm (s.readDst s.wm dst)
  .next ((s.writeDst s.wm dst r).setNZ s.wm r)

/-- INX (R256). -/
def execInx (s : State) : Host.Outcome State Fault Refusal :=
  let r := plusOne s.wx s.x
  .next ((s.setX r).setNZ s.wx r)

/-- INY (R257). -/
def execIny (s : State) : Host.Outcome State Fault Refusal :=
  let r := plusOne s.wx s.y
  .next ((s.setY r).setNZ s.wx r)

/-- DEX (R258). -/
def execDex (s : State) : Host.Outcome State Fault Refusal :=
  let r := minusOne s.wx s.x
  .next ((s.setX r).setNZ s.wx r)

/-- DEY (R259). -/
def execDey (s : State) : Host.Outcome State Fault Refusal :=
  let r := minusOne s.wx s.y
  .next ((s.setY r).setNZ s.wx r)

/-! ## Multiplication and division -/

/-- `A[w-1:0] <- low`, `B[w-1:0] <- high`. -/
def State.setPair (s : State) (w : Width) (high low : Word) : State := (s.setAcc .a w low).setAcc .b w high

/-- A product of `2w` bits in B and A (R260, R261). -/
def State.setProduct (s : State) (w : Width) (p : Nat) : State :=
  s.setPair w (ofNatW w (p / 2 ^ w.bits)) (ofNatW w p)

/-- N and Z of a product of `2w` bits (R260, R261). -/
def PS.ofProduct (ps : PS) (w : Width) (p : Nat) : PS :=
  { ps with n := decide (2 ^ (2 * w.bits - 1) ≤ p), z := decide (p = 0) }

/-- `sext_w(a) * sext_w(b)` as a number of `2w` bits (R261). -/
def signedProduct (w : Width) (a b : Word) : Nat := (signedW w a * signedW w b % 2 ^ (2 * w.bits)).toNat

/-- MPY (R260): C becomes 0. -/
def execMpy (src : Src) (s : State) : Host.Outcome State Fault Refusal :=
  let p := (s.accW .a s.wm).toNat * (s.operand s.wm src).toNat
  let t := (s.afterOperand s.wm src).setProduct s.wm p
  .next { t with ps := { t.ps.ofProduct s.wm p with c := false } }

/-- MPYS (R261): C stays. -/
def execMpys (src : Src) (s : State) : Host.Outcome State Fault Refusal :=
  let p := signedProduct s.wm (s.accW .a s.wm) (s.operand s.wm src)
  let t := (s.afterOperand s.wm src).setProduct s.wm p
  .next { t with ps := t.ps.ofProduct s.wm p }

/-- The dividend `B:A` as a number of `2w` bits (R262). -/
def State.dividend (s : State) (w : Width) : Nat := (s.accW .b w).toNat * 2 ^ w.bits + (s.accW .a w).toNat

/-- Division overflow: V = C = 1, N and Z stay, A and B are free at width `w` (R265, D14, log 8). -/
def State.divideOverflow (s : State) (w : Width) : State :=
  let t := s.setPair w (Config.freeWord s.bus.draws 1) (Config.freeWord s.bus.draws 0)
  { t with ps := { t.ps with v := true, c := true } }

/-- Quotient and remainder in A and B; N and Z from the quotient, V = C = 0 (R262, R263). -/
def State.setQuotient (s : State) (w : Width) (q r : Word) : State :=
  let t := s.setPair w r q
  { t with ps := { t.ps.setNZ w q with v := false, c := false } }

/-- The zero division interrupt (R264, R374, D5). -/
def State.zeroDivision (s : State) : State := s.enter s.next vectorZeroDivision none

/-- DIV (R262). -/
def execDiv (src : Src) (s : State) : Host.Outcome State Fault Refusal :=
  let d := (s.operand s.wm src).toNat
  let n := s.dividend s.wm
  if d = 0 then .next (s.afterOperand s.wm src).zeroDivision
  else if 2 ^ s.wm.bits ≤ n / d then .next ((s.afterOperand s.wm src).divideOverflow s.wm)
  else .next ((s.afterOperand s.wm src).setQuotient s.wm (ofNatW s.wm (n / d)) (ofNatW s.wm (n % d)))

/-- An integer as an operand of width `w`: `v mod 2^w`. -/
def ofIntW (w : Width) (v : Int) : Word := ofNatW w (v % 2 ^ w.bits).toNat

/-- Whether a signed quotient is outside the printed range (R263). -/
def quotientOverflows (w : Width) (q : Int) : Bool :=
  decide (q < -(2 ^ (w.bits - 1) - 1)) || decide (2 ^ (w.bits - 1) - 1 < q)

/-- DIVS (R263): rounded toward zero, the remainder has the sign of the dividend. -/
def execDivs (src : Src) (s : State) : Host.Outcome State Fault Refusal :=
  let d := signedW s.wm (s.operand s.wm src)
  let n := signedDouble s.wm (s.dividend s.wm)
  if d = 0 then .next (s.afterOperand s.wm src).zeroDivision
  else if quotientOverflows s.wm (n.tdiv d) then .next ((s.afterOperand s.wm src).divideOverflow s.wm)
  else .next ((s.afterOperand s.wm src).setQuotient s.wm (ofIntW s.wm (n.tdiv d)) (ofIntW s.wm (n.tmod d)))

end Sys2Proof.Machine
end

