-- ==== Sys2Proof/Machine/BitFlag.lean ====
section
/-! DEFINITION. Bit manipulation and flag manipulation instructions (47_bit_and_flag.md). -/

namespace Sys2Proof.Machine

/-- CLB (R311): the operand is read once and written once, also when it does not change (R310). -/
def execClb (md : Mode) (imm : Imm) (s : State) : Host.Outcome State Fault Refusal :=
  .next (s.updateMem s.wm md (s.memOperand s.wm md &&& ~~~(immValue s.wm imm)))

/-- SEB (R312). -/
def execSeb (md : Mode) (imm : Imm) (s : State) : Host.Outcome State Fault Refusal :=
  .next (s.updateMem s.wm md (s.memOperand s.wm md ||| immValue s.wm imm))

/-- CLP (R314). -/
def execClp (imm : Byte) (s : State) : Host.Outcome State Fault Refusal :=
  .next { s with ps := s.ps.withLow (s.ps.low &&& ~~~imm) }

/-- SEP (R315). -/
def execSep (imm : Byte) (s : State) : Host.Outcome State Fault Refusal :=
  .next { s with ps := s.ps.withLow (s.ps.low ||| imm) }

/-- CLC (R316). -/
def execClc (s : State) : Host.Outcome State Fault Refusal := .next { s with ps := { s.ps with c := false } }

/-- CLI (R317). -/
def execCli (s : State) : Host.Outcome State Fault Refusal := .next { s with ps := { s.ps with i := false } }

/-- CLM (R318). -/
def execClm (s : State) : Host.Outcome State Fault Refusal := .next { s with ps := { s.ps with m := false } }

/-- CLV (R319). -/
def execClv (s : State) : Host.Outcome State Fault Refusal := .next { s with ps := { s.ps with v := false } }

/-- SEC (R320). -/
def execSec (s : State) : Host.Outcome State Fault Refusal := .next { s with ps := { s.ps with c := true } }

/-- SEI (R321). -/
def execSei (s : State) : Host.Outcome State Fault Refusal := .next { s with ps := { s.ps with i := true } }

/-- SEM (R322). -/
def execSem (s : State) : Host.Outcome State Fault Refusal := .next { s with ps := { s.ps with m := true } }

end Sys2Proof.Machine
end

