-- ==== Sys2Proof/Machine/Interrupts.lean ====
section
/-! DEFINITION. What happens at an instruction boundary: which request is accepted (R380 to R382), interrupt entry (R375),
wake-up (R392, R364), and a reset that arrives from outside (R410). -/

namespace Sys2Proof.Machine

/-- An entry of the script in which nothing arrives. -/
def quiet : Input := { reset := none, pending := [] }

/-- What arrives at the coming boundary. -/
def State.arriving (s : State) : Input := s.inputs.headD quiet

/-- The state at the start of a step: no access is refused yet, and no device written to. -/
def State.allowed (s : State) : State := { s with bus := { s.bus with denied := none, written := [] } }

/-- The state at the start of a step that begins at a boundary: its entry is used up, free values are fresh. -/
def State.beginStep (s : State) : State :=
  { s.allowed with
    inputs := s.inputs.tail, bus := { s.allowed.bus with draws := s.bus.draws + 1 }, jumped := false }

/-- Whether a request is acceptable under a given PS (R380): a non-maskable one always, a maskable one when I = 0 and its
level is above IPL. A request of no source of the platform, or a maskable one without a level, never is. -/
def acceptable (p : Platform) (ps : PS) (r : Request) : Bool :=
  match p.sources[r.source]? with
  | none => false
  | some src =>
    if src.maskable then
      match r.level with
      | none => false
      | some l => !ps.i && decide (ps.ipl.toNat < l.toNat)
    else true

/-- The order of R382: non-maskable above every level, then the level. -/
def priorityOf (p : Platform) (r : Request) : Nat :=
  match p.sources[r.source]? with
  | none => 0
  | some src => if src.maskable then (r.level.getD 0#3).toNat else 8

/-- Whether `r` is taken before `q`: higher priority, or the same and an earlier source (R382, log 22). -/
def goesBefore (p : Platform) (r q : Request) : Bool :=
  decide (priorityOf p q < priorityOf p r) ||
    (decide (priorityOf p q = priorityOf p r) && decide (r.source ≤ q.source))

/-- The request that is accepted, if any is acceptable (R380, R382). -/
def choose (p : Platform) (ps : PS) (pending : List Request) : Option Request :=
  match pending with
  | [] => none
  | r :: rest =>
    match choose p ps rest with
    | none => if acceptable p ps r then some r else none
    | some q => if acceptable p ps r && goesBefore p r q then some r else some q

/-- `vectorOf` (R371, R379). -/
def vectorOf (p : Platform) (r : Request) : Word :=
  match p.sources[r.source]? with
  | none => 0x0000#16
  | some src => src.vector

/-- Hardware interrupt entry (R375, R392): the return address is that of the instruction that would have come next. -/
def State.accept (s : State) (r : Request) : State :=
  { s.enter s.next (vectorOf s.plat r) r.level with run := .running, stale := [] }

/-- Whether a request of a source of the platform is pending. -/
def anyRequest (p : Platform) (pending : List Request) : Bool :=
  pending.any fun r => decide (r.source < p.sources.length)

/-- The bytes that RAM holds after a reset, stored one by one (R410, log 12). -/
def fillRam (p : Platform) (mem : List Host.Cell) (cells : List Host.Cell) : List Host.Cell :=
  match cells with
  | [] => mem
  | (a, v) :: rest => fillRam p (storeByte p mem (BitVec.ofNat 24 a) v) rest

/-- The registers and memory at a reset; `args` gives what the spec leaves open (R410, D3). -/
def State.resetRegisters (s : State) (args : ResetArgs) : State :=
  { s with
    a := args.a, b := args.b, x := args.x, y := args.y, sp := args.sp
    pg := 0x00#8, dt := 0x00#8, dpr := 0x0000#16
    ps := { c := args.c, z := args.z, i := true, d := false, x := false, m := false, v := args.v, n := args.n,
            ipl := 0#3 }
    mem := fillRam s.plat s.mem args.ram, run := .running, bus := { s.bus with devices := args.devices } }

/-- A reset that arrives while the machine runs, waits or is stopped (R410). -/
def State.resetEvent (s : State) (args : ResetArgs) : State := (s.resetRegisters args).loadResetVector

/-- What a boundary leads to. -/
inductive Event where
  /-- A reset (R410). -/
  | reset (args : ResetArgs)
  /-- Entry for a request (R375). -/
  | accept (r : Request)
  /-- A masked request restarts the clock, where the platform says so (R364). -/
  | wake
  /-- Waiting or stopped, nothing happens (R392). -/
  | idle
  /-- The next instruction runs (R92). -/
  | execute
  deriving DecidableEq, Repr

/-- What happens when no request is accepted. -/
def eventOfRun (s : State) : Event :=
  match s.run with
  | .running => .execute
  | .waiting => if s.plat.maskedRequestWakes && anyRequest s.plat s.arriving.pending then .wake else .idle
  | .stopped => if s.plat.maskedRequestWakes && anyRequest s.plat s.arriving.pending then .wake else .idle

/-- The evaluation of a boundary (R381, R392, R410), with PS as it is now (R422). -/
def State.event (s : State) : Event :=
  match s.arriving.reset with
  | some args => .reset args
  | none =>
    match choose s.plat s.ps s.arriving.pending with
    | some r => .accept r
    | none => eventOfRun s

end Sys2Proof.Machine
end

