-- ==== Sys2Proof/Machine/Block.lean ====
section
/-! DEFINITION. Block transfer instructions (44_block_transfer.md): word steps, the last byte of an odd count, the refusals of
R245 and R247, and the interruption of R248 where the platform allows it. -/

namespace Sys2Proof.Machine

/-- Where a transfer is when its steps end: memory, the offsets, how many bytes are left, and whether an interrupt request
ended it early. -/
structure BlockEnd where
  s : State
  x : Word
  y : Word
  left : Nat
  interrupted : Bool
  deriving DecidableEq, Repr

/-- The boundary between two steps, where the platform has one (R248, log 14): `none` when an acceptable request arrives
there, which stays for the coming boundary; otherwise the state in which the transfer goes on. A reset waits for the end. -/
def State.betweenSteps (s : State) : Option State :=
  if s.plat.blockMoveInterruptible then
    match s.arriving.reset with
    | some _ => some s
    | none =>
      match choose s.plat s.ps s.arriving.pending with
      | some _ => none
      | none => some { s with inputs := s.inputs.tail }
  else some s

/-- The state in which the transfer goes on with `left` bytes to move; no boundary lies after the last step. -/
def State.afterStep (s : State) (left : Nat) : Option State := if left = 0 then some s else s.betweenSteps

/-- The steps of MVN (R241, R243) from bank `ss` to bank `dd`. -/
def moveUp (ss dd : Byte) : Nat → State → Word → Word → BlockEnd
  | 0, s, x, y => { s := s, x := x, y := y, left := 0, interrupted := false }
  | 1, s, x, y =>
    { s := (s.after16 (mkAddr ss x)).write8 (mkAddr dd y) (loByte (s.read16 (mkAddr ss x))), x := x + 1#16, y := y + 1#16, left := 0,
      interrupted := false }
  | n + 2, s, x, y =>
    let t := (s.after16 (mkAddr ss x)).write16 (mkAddr dd y) (s.read16 (mkAddr ss x))
    match t.afterStep n with
    | none => { s := t, x := x + 2#16, y := y + 2#16, left := n, interrupted := true }
    | some u => moveUp ss dd n u (x + 2#16) (y + 2#16)

/-- The steps of MVP (R242, R243) from bank `ss` to bank `dd`. -/
def moveDown (ss dd : Byte) : Nat → State → Word → Word → BlockEnd
  | 0, s, x, y => { s := s, x := x, y := y, left := 0, interrupted := false }
  | 1, s, x, y =>
    { s := (s.after16 (mkAddr ss x - 1#24)).write8 (mkAddr dd y) (hiByte (s.read16 (mkAddr ss x - 1#24))), x := x - 1#16,
      y := y - 1#16, left := 0, interrupted := false }
  | n + 2, s, x, y =>
    let t := (s.after16 (mkAddr ss (x - 1#16))).write16 (mkAddr dd (y - 1#16)) (s.read16 (mkAddr ss (x - 1#16)))
    match t.afterStep n with
    | none => { s := t, x := x - 2#16, y := y - 2#16, left := n, interrupted := true }
    | some u => moveDown ss dd n u (x - 2#16) (y - 2#16)

/-- The registers after a whole transfer (R241, R242, R244, R245). -/
def BlockEnd.finish (e : BlockEnd) (dd : Byte) : State :=
  { e.s with
    a := merge e.s.wm e.s.a 0xFFFF#16
    x := merge e.s.wx e.s.x e.x
    y := merge e.s.wx e.s.y e.y
    dt := dd }

/-- The registers of an interrupted transfer: the progress so far and the address `ia` of the instruction (R248). -/
def BlockEnd.suspend (e : BlockEnd) : State :=
  { e.s with
    a := merge e.s.wm e.s.a (BitVec.ofNat 16 e.left)
    x := merge e.s.wx e.s.x e.x
    y := merge e.s.wx e.s.y e.y
    pg := bankOf (e.s.next - 3#24)
    pc := offsetOf (e.s.next - 3#24)
    jumped := true }

/-- The state after a transfer. -/
def BlockEnd.state (e : BlockEnd) (dd : Byte) : State := if e.interrupted then e.suspend else e.finish dd

/-- The count of bytes: A at the width of flag m (R240). -/
def State.blockCount (s : State) : Nat := (s.accW .a s.wm).toNat

/-- Whether the high byte that x = 1 hides is not 00h in X or in Y (R245). -/
def State.hidesIndex (s : State) : Bool := decide (s.indexX ≠ s.x) || decide (s.indexY ≠ s.y)

/-- The condition of R247 for MVN. -/
def State.staysBelow (s : State) : Bool :=
  decide (s.indexX.toNat + s.blockCount ≤ 2 ^ s.wx.bits) && decide (s.indexY.toNat + s.blockCount ≤ 2 ^ s.wx.bits)

/-- The condition of R247 for MVP. -/
def State.staysAbove (s : State) : Bool :=
  decide (s.blockCount ≤ s.indexX.toNat + 1) && decide (s.blockCount ≤ s.indexY.toNat + 1)

/-- MVN (R241): `n1` is the destination bank, `n2` the source bank. -/
def execMvn (n1 n2 : Byte) (s : State) : Host.Outcome State Fault Refusal :=
  if s.hidesIndex then .refused .blockIndexHighByte
  else if s.staysBelow then .next ((moveUp n2 n1 s.blockCount s s.indexX s.indexY).state n1)
  else .refused .blockCrossesBank

/-- MVP (R242). -/
def execMvp (n1 n2 : Byte) (s : State) : Host.Outcome State Fault Refusal :=
  if s.hidesIndex then .refused .blockIndexHighByte
  else if s.staysAbove then .next ((moveDown n2 n1 s.blockCount s s.indexX s.indexY).state n1)
  else .refused .blockCrossesBank

end Sys2Proof.Machine
end

