-- ==== Sys2Proof/Machine/Branch.lean ====
section
/-! DEFINITION. Jump, branch, subroutine and return instructions (48_branch_return.md). -/

namespace Sys2Proof.Machine

/-- JMP (R331). -/
def execJmp (t : Target) (s : State) : Host.Outcome State Fault Refusal :=
  .next (s.goTo t)

/-- What JSR pushes: the address of the next instruction, with its bank for the absolute long form only (R332). -/
def State.pushReturn (s : State) (t : Target) : State :=
  match t with
  | .absL _ => (s.push8 s.pg).push16 s.pc
  | .abs _ => s.push16 s.pc
  | .ind _ => s.push16 s.pc
  | .indL _ => s.push16 s.pc
  | .indX _ => s.push16 s.pc

/-- JSR (R332): the pushes come before the read of the pointer. -/
def execJsr (t : Target) (s : State) : Host.Outcome State Fault Refusal :=
  .next ((s.pushReturn t).goTo t)

/-- BRA (R333). -/
def execBra (rel : Rel) (s : State) : Host.Outcome State Fault Refusal :=
  match rel with
  | .short rr => .next (s.branch (rr.signExtend 24))
  | .long rr => .next (s.branch (rr.signExtend 24))

/-- BBC (R334). -/
def execBbc (md : Mode) (imm : Imm) (rr : Byte) (s : State) : Host.Outcome State Fault Refusal :=
  .next ((s.afterMem s.wm md).branchIf (decide (s.memOperand s.wm md &&& immValue s.wm imm = 0x0000#16)) rr)

/-- BBS (R335). -/
def execBbs (md : Mode) (imm : Imm) (rr : Byte) (s : State) : Host.Outcome State Fault Refusal :=
  .next ((s.afterMem s.wm md).branchIf (decide (s.memOperand s.wm md &&& immValue s.wm imm = immValue s.wm imm)) rr)

/-- BCC (R336). -/
def execBcc (rr : Byte) (s : State) : Host.Outcome State Fault Refusal := .next (s.branchIf (!s.ps.c) rr)

/-- BCS (R337). -/
def execBcs (rr : Byte) (s : State) : Host.Outcome State Fault Refusal := .next (s.branchIf s.ps.c rr)

/-- BEQ (R338). -/
def execBeq (rr : Byte) (s : State) : Host.Outcome State Fault Refusal := .next (s.branchIf s.ps.z rr)

/-- BMI (R339). -/
def execBmi (rr : Byte) (s : State) : Host.Outcome State Fault Refusal := .next (s.branchIf s.ps.n rr)

/-- BNE (R340). -/
def execBne (rr : Byte) (s : State) : Host.Outcome State Fault Refusal := .next (s.branchIf (!s.ps.z) rr)

/-- BPL (R341). -/
def execBpl (rr : Byte) (s : State) : Host.Outcome State Fault Refusal := .next (s.branchIf (!s.ps.n) rr)

/-- BVC (R342). -/
def execBvc (rr : Byte) (s : State) : Host.Outcome State Fault Refusal := .next (s.branchIf (!s.ps.v) rr)

/-- BVS (R343). -/
def execBvs (rr : Byte) (s : State) : Host.Outcome State Fault Refusal := .next (s.branchIf s.ps.v rr)

/-- RTS (R345): PG keeps the bank of the next instruction. -/
def execRts (s : State) : Host.Outcome State Fault Refusal :=
  .next (s.drop16.jumpTo s.pg s.top16)

/-- RTL (R346). -/
def execRtl (s : State) : Host.Outcome State Fault Refusal :=
  .next (s.drop16.drop8.jumpTo s.drop16.top8 s.top16)

/-- RTI (R347). -/
def execRti (s : State) : Host.Outcome State Fault Refusal := .next s.leave

end Sys2Proof.Machine
end

