-- ==== Sys2Proof/Machine/LoadStore.lean ====
section
/-! DEFINITION. Load and store instructions (41_load_store.md). In every meaning PG:PC already holds `na` (R92, R160). -/

namespace Sys2Proof.Machine

/-- LDA (R162). -/
def execLda (r : Acc) (src : Src) (s : State) : Host.Outcome State Fault Refusal :=
  let v := s.operand s.wm src
  .next (((s.afterOperand s.wm src).setAcc r s.wm v).setNZ s.wm v)

/-- LDM (R163). -/
def execLdm (md : Mode) (imm : Imm) (s : State) : Host.Outcome State Fault Refusal :=
  .next (s.storeMem s.wm md (immValue s.wm imm))

/-- LDT (R164). -/
def execLdt (imm : Byte) (s : State) : Host.Outcome State Fault Refusal := .next { s with dt := imm }

/-- LDX (R165). -/
def execLdx (src : Src) (s : State) : Host.Outcome State Fault Refusal :=
  let v := s.operand s.wx src
  .next (((s.afterOperand s.wx src).setX v).setNZ s.wx v)

/-- LDY (R166). -/
def execLdy (src : Src) (s : State) : Host.Outcome State Fault Refusal :=
  let v := s.operand s.wx src
  .next (((s.afterOperand s.wx src).setY v).setNZ s.wx v)

/-- STA (R167). -/
def execSta (r : Acc) (md : Mode) (s : State) : Host.Outcome State Fault Refusal :=
  .next (s.storeMem s.wm md (s.acc r))

/-- STX (R168). -/
def execStx (md : Mode) (s : State) : Host.Outcome State Fault Refusal := .next (s.storeMem s.wx md s.x)

/-- STY (R169). -/
def execSty (md : Mode) (s : State) : Host.Outcome State Fault Refusal := .next (s.storeMem s.wx md s.y)

end Sys2Proof.Machine
end

