-- ==== Sys2Proof/Machine/Logic.lean ====
section
/-! DEFINITION. Logic, compare, shift, rotate and extension instructions (46_logic_compare_shift.md). -/

namespace Sys2Proof.Machine

/-- A result in an accumulator with N and Z, at the width of flag m (R280 to R282). -/
def State.setResult (s : State) (r : Acc) (v : Word) : State := (s.setAcc r s.wm v).setNZ s.wm v

/-- AND (R280). -/
def execAnd (r : Acc) (src : Src) (s : State) : Host.Outcome State Fault Refusal :=
  .next ((s.afterOperand s.wm src).setResult r (s.accW r s.wm &&& s.operand s.wm src))

/-- ORA (R281). -/
def execOra (r : Acc) (src : Src) (s : State) : Host.Outcome State Fault Refusal :=
  .next ((s.afterOperand s.wm src).setResult r (s.accW r s.wm ||| s.operand s.wm src))

/-- EOR (R282). -/
def execEor (r : Acc) (src : Src) (s : State) : Host.Outcome State Fault Refusal :=
  .next ((s.afterOperand s.wm src).setResult r (s.accW r s.wm ^^^ s.operand s.wm src))

/-- CMP (R284). -/
def execCmp (r : Acc) (src : Src) (s : State) : Host.Outcome State Fault Refusal :=
  .next { s.afterOperand s.wm src with ps := s.ps.compare s.wm (s.accW r s.wm) (s.operand s.wm src) }

/-- CPX (R285). -/
def execCpx (src : Src) (s : State) : Host.Outcome State Fault Refusal :=
  .next { s.afterOperand s.wx src with ps := s.ps.compare s.wx s.indexX (s.operand s.wx src) }

/-- CPY (R286). -/
def execCpy (src : Src) (s : State) : Host.Outcome State Fault Refusal :=
  .next { s.afterOperand s.wx src with ps := s.ps.compare s.wx s.indexY (s.operand s.wx src) }

/-- The shape that shifts and rotates share: read, change, write back, C, N and Z (R287). -/
def State.shiftBy (s : State) (f : Width → Word → Bool → Word × Bool) (dst : Dst) : State :=
  let out := f s.wm (s.readDst s.wm dst) s.ps.c
  let t := s.writeDst s.wm dst out.1
  { t with ps := t.ps.shifted s.wm out }

/-- ASL (R288). -/
def execAsl (dst : Dst) (s : State) : Host.Outcome State Fault Refusal := .next (s.shiftBy shiftAsl dst)

/-- ASR (R289). -/
def execAsr (dst : Dst) (s : State) : Host.Outcome State Fault Refusal := .next (s.shiftBy shiftAsr dst)

/-- LSR (R290). -/
def execLsr (dst : Dst) (s : State) : Host.Outcome State Fault Refusal := .next (s.shiftBy shiftLsr dst)

/-- ROL (R291). -/
def execRol (dst : Dst) (s : State) : Host.Outcome State Fault Refusal := .next (s.shiftBy shiftRol dst)

/-- ROR (R292). -/
def execRor (dst : Dst) (s : State) : Host.Outcome State Fault Refusal := .next (s.shiftBy shiftRor dst)

/-- RLA (R293): no flag. -/
def execRla (imm : Imm) (s : State) : Host.Outcome State Fault Refusal :=
  .next (s.setAcc .a s.wm (rotateLeft s.wm (s.accW .a s.wm) (immValue s.wm imm).toNat))

/-- A 16-bit result in an accumulator with N and Z, whatever m is (R294, R295). -/
def State.setExtended (s : State) (r : Acc) (v : Word) : State := (s.setAcc r .w16 v).setNZ .w16 v

/-- EXTS (R294). -/
def execExts (r : Acc) (s : State) : Host.Outcome State Fault Refusal :=
  .next (s.setExtended r ((loByte (s.acc r)).signExtend 16))

/-- EXTZ (R295). -/
def execExtz (r : Acc) (s : State) : Host.Outcome State Fault Refusal :=
  .next (s.setExtended r (ofByte (loByte (s.acc r))))

end Sys2Proof.Machine
end

