-- ==== Sys2Proof/Machine/Special.lean ====
section
/-! DEFINITION. BRK, NOP, STP and WIT (49_interrupt_special_other.md). -/

namespace Sys2Proof.Machine

/-- BRK (R360, R373): its second byte plays no part (R108). -/
def execBrk (_ : Byte) (s : State) : Host.Outcome State Fault Refusal := .next (s.enter s.next vectorBrk none)

/-- NOP (R361). -/
def execNop (s : State) : Host.Outcome State Fault Refusal := .next s

/-- STP (R362). -/
def execStp (s : State) : Host.Outcome State Fault Refusal := .next { s with run := .stopped }

/-- WIT (R363). -/
def execWit (s : State) : Host.Outcome State Fault Refusal := .next { s with run := .waiting }

end Sys2Proof.Machine
end

