-- ==== Sys2Proof/Machine/Stack.lean ====
section
/-! DEFINITION. Stack instructions (43_stack.md). -/

namespace Sys2Proof.Machine

/-! ## Steps of PSH and PUL -/

/-- One step of PSH: a register of width `w`, if its bit is 1 (R212). -/
def State.pushIf (s : State) (bit : Bool) (w : Width) (v : Word) : State := if bit then s.pushW w v else s

/-- The PS step of PUL (R213). -/
def State.pullPsIf (s : State) (bit : Bool) : State :=
  if bit then { s.drop16 with ps := PS.ofWord s.top16 } else s

/-- The DT step of PUL (R213). -/
def State.pullDtIf (s : State) (bit : Bool) : State :=
  if bit then { s.drop8 with dt := s.top8 } else s

/-- The DPR step of PUL (R213). -/
def State.pullDprIf (s : State) (bit : Bool) : State :=
  if bit then { s.drop16 with dpr := s.top16 } else s

/-- The Y step of PUL (R213). -/
def State.pullYIf (s : State) (bit : Bool) : State := if bit then (s.dropW s.wx).setY (s.topW s.wx) else s

/-- The X step of PUL (R213). -/
def State.pullXIf (s : State) (bit : Bool) : State := if bit then (s.dropW s.wx).setX (s.topW s.wx) else s

/-- The step of PUL for an accumulator (R213). -/
def State.pullAccIf (s : State) (bit : Bool) (r : Acc) : State :=
  if bit then (s.dropW s.wm).setAcc r s.wm (s.topW s.wm) else s

/-- PSH (R212): bit 0 first; m and x do not change on the way. -/
def execPsh (nn : Byte) (s : State) : Host.Outcome State Fault Refusal :=
  .next ((((((((s.pushIf (nn.getLsbD 0) s.wm s.a).pushIf (nn.getLsbD 1) s.wm s.b).pushIf (nn.getLsbD 2) s.wx s.x).pushIf
    (nn.getLsbD 3) s.wx s.y).pushIf (nn.getLsbD 4) .w16 s.dpr).pushIf (nn.getLsbD 5) .w8 (ofByte s.dt)).pushIf
    (nn.getLsbD 6) .w8 (ofByte s.pg)).pushIf (nn.getLsbD 7) .w16 s.ps.toWord)

/-- PUL (R213): bit 7 first, then m and x as restored; bit 6 names no register. -/
def execPul (nn : Byte) (s : State) : Host.Outcome State Fault Refusal :=
  .next (((((((s.pullPsIf (nn.getLsbD 7)).pullDtIf (nn.getLsbD 5)).pullDprIf (nn.getLsbD 4)).pullYIf
    (nn.getLsbD 3)).pullXIf (nn.getLsbD 2)).pullAccIf (nn.getLsbD 1) .b).pullAccIf (nn.getLsbD 0) .a)

/-! ## Computed values -/

/-- PEA (R214). -/
def execPea (imm : Word) (s : State) : Host.Outcome State Fault Refusal := .next (s.push16 imm)

/-- PEI (R215). -/
def execPei (dd : Byte) (s : State) : Host.Outcome State Fault Refusal :=
  .next ((s.after16 (s.direct dd)).push16 (s.read16 (s.direct dd)))

/-- PER (R216, D4): the sum is one of 16 bits. -/
def execPer (imm : Word) (s : State) : Host.Outcome State Fault Refusal := .next (s.push16 (s.pc + imm))

/-! ## Single pushes -/

/-- PHA (R217). -/
def execPha (s : State) : Host.Outcome State Fault Refusal := .next (s.pushW s.wm s.a)

/-- PHB (R218). -/
def execPhb (s : State) : Host.Outcome State Fault Refusal := .next (s.pushW s.wm s.b)

/-- PHD (R219). -/
def execPhd (s : State) : Host.Outcome State Fault Refusal := .next (s.push16 s.dpr)

/-- PHG (R220): the bank of the next instruction. -/
def execPhg (s : State) : Host.Outcome State Fault Refusal := .next (s.push8 s.pg)

/-- PHP (R221). -/
def execPhp (s : State) : Host.Outcome State Fault Refusal := .next (s.push16 s.ps.toWord)

/-- PHT (R222). -/
def execPht (s : State) : Host.Outcome State Fault Refusal := .next (s.push8 s.dt)

/-- PHX (R223). -/
def execPhx (s : State) : Host.Outcome State Fault Refusal := .next (s.pushW s.wx s.x)

/-- PHY (R224). -/
def execPhy (s : State) : Host.Outcome State Fault Refusal := .next (s.pushW s.wx s.y)

/-! ## Single pulls -/

/-- PLA (R225). -/
def execPla (s : State) : Host.Outcome State Fault Refusal :=
  .next (((s.dropW s.wm).setAcc .a s.wm (s.topW s.wm)).setNZ s.wm (s.topW s.wm))

/-- PLB (R226). -/
def execPlb (s : State) : Host.Outcome State Fault Refusal :=
  .next (((s.dropW s.wm).setAcc .b s.wm (s.topW s.wm)).setNZ s.wm (s.topW s.wm))

/-- PLD (R227): no flag. -/
def execPld (s : State) : Host.Outcome State Fault Refusal :=
  .next { s.drop16 with dpr := s.top16 }

/-- PLP (R228). -/
def execPlp (s : State) : Host.Outcome State Fault Refusal :=
  .next { s.drop16 with ps := PS.ofWord s.top16 }

/-- PLT (R229): 8 bits whatever m and x are. -/
def execPlt (s : State) : Host.Outcome State Fault Refusal :=
  .next (({ s.drop8 with dt := s.top8 } : State).setNZ .w8 (ofByte s.top8))

/-- PLX (R230). -/
def execPlx (s : State) : Host.Outcome State Fault Refusal :=
  .next (((s.dropW s.wx).setX (s.topW s.wx)).setNZ s.wx (s.topW s.wx))

/-- PLY (R231). -/
def execPly (s : State) : Host.Outcome State Fault Refusal :=
  .next (((s.dropW s.wx).setY (s.topW s.wx)).setNZ s.wx (s.topW s.wx))

end Sys2Proof.Machine
end

