-- ==== Sys2Proof/Machine/Transfer.lean ====
section
/-! DEFINITION. Register transfer and exchange instructions (42_register_transfer.md). -/

namespace Sys2Proof.Machine

/-- A transfer to X at the width of flag x, with N and Z (R180). -/
def State.toX (s : State) (v : Word) : State := (s.setX v).setNZ s.wx v

/-- A transfer to Y at the width of flag x, with N and Z (R180). -/
def State.toY (s : State) (v : Word) : State := (s.setY v).setNZ s.wx v

/-- A transfer to an accumulator at the width of flag m, with N and Z (R180). -/
def State.toAcc (s : State) (r : Acc) (v : Word) : State := (s.setAcc r s.wm v).setNZ s.wm v

/-- TAD (R181). -/
def execTad (s : State) : Host.Outcome State Fault Refusal := .next { s with dpr := s.a }

/-- TAS (R182). -/
def execTas (s : State) : Host.Outcome State Fault Refusal := .next { s with sp := s.a }

/-- TAX (R183). -/
def execTax (s : State) : Host.Outcome State Fault Refusal := .next (s.toX s.a)

/-- TAY (R184). -/
def execTay (s : State) : Host.Outcome State Fault Refusal := .next (s.toY s.a)

/-- TBD (R185). -/
def execTbd (s : State) : Host.Outcome State Fault Refusal := .next { s with dpr := s.b }

/-- TBS (R186). -/
def execTbs (s : State) : Host.Outcome State Fault Refusal := .next { s with sp := s.b }

/-- TBX (R187). -/
def execTbx (s : State) : Host.Outcome State Fault Refusal := .next (s.toX s.b)

/-- TBY (R188). -/
def execTby (s : State) : Host.Outcome State Fault Refusal := .next (s.toY s.b)

/-- TDA (R189). -/
def execTda (s : State) : Host.Outcome State Fault Refusal := .next (s.toAcc .a s.dpr)

/-- TDB (R190). -/
def execTdb (s : State) : Host.Outcome State Fault Refusal := .next (s.toAcc .b s.dpr)

/-- TSA (R191). -/
def execTsa (s : State) : Host.Outcome State Fault Refusal := .next (s.toAcc .a s.sp)

/-- TSB (R192). -/
def execTsb (s : State) : Host.Outcome State Fault Refusal := .next (s.toAcc .b s.sp)

/-- TSX (R193). -/
def execTsx (s : State) : Host.Outcome State Fault Refusal := .next (s.toX s.sp)

/-- TXS (R194): with x = 1 the high byte of S becomes 00h. -/
def execTxs (s : State) : Host.Outcome State Fault Refusal := .next { s with sp := s.indexX }

/-- TXY (R195). -/
def execTxy (s : State) : Host.Outcome State Fault Refusal := .next (s.toY s.x)

/-- TXA (R196): with m = 0 and x = 1 the high byte of A becomes 00h. -/
def execTxa (s : State) : Host.Outcome State Fault Refusal := .next (s.toAcc .a s.indexX)

/-- TXB (R197). -/
def execTxb (s : State) : Host.Outcome State Fault Refusal := .next (s.toAcc .b s.indexX)

/-- TYA (R198). -/
def execTya (s : State) : Host.Outcome State Fault Refusal := .next (s.toAcc .a s.indexY)

/-- TYB (R199). -/
def execTyb (s : State) : Host.Outcome State Fault Refusal := .next (s.toAcc .b s.indexY)

/-- TYX (R200). -/
def execTyx (s : State) : Host.Outcome State Fault Refusal := .next (s.toX s.y)

/-- XAB (R201): N and Z from A after the exchange. -/
def execXab (s : State) : Host.Outcome State Fault Refusal :=
  .next (((s.setAcc .a s.wm s.b).setAcc .b s.wm s.a).setNZ s.wm s.b)

end Sys2Proof.Machine
end

