-- ==== Sys2Proof/Machine/Dispatch.lean ====
section
/-! DEFINITION. The effect of each instruction: one arm for each constructor of Instr. -/

namespace Sys2Proof.Machine

/-- The effect of an instruction, in the frame of R92: PG:PC already holds the address of the next instruction. -/
def exec (i : Instr) (s : State) : Host.Outcome State Fault Refusal :=
  match i with
  -- load and store (41_load_store.md)
  | .lda acc src => Sys2Proof.Machine.execLda acc src s
  | .ldm md imm => Sys2Proof.Machine.execLdm md imm s
  | .ldt imm => Sys2Proof.Machine.execLdt imm s
  | .ldx src => Sys2Proof.Machine.execLdx src s
  | .ldy src => Sys2Proof.Machine.execLdy src s
  | .sta acc md => Sys2Proof.Machine.execSta acc md s
  | .stx md => Sys2Proof.Machine.execStx md s
  | .sty md => Sys2Proof.Machine.execSty md s
  -- register transfers (42_register_transfer.md)
  | .tad => Sys2Proof.Machine.execTad s
  | .tas => Sys2Proof.Machine.execTas s
  | .tax => Sys2Proof.Machine.execTax s
  | .tay => Sys2Proof.Machine.execTay s
  | .tbd => Sys2Proof.Machine.execTbd s
  | .tbs => Sys2Proof.Machine.execTbs s
  | .tbx => Sys2Proof.Machine.execTbx s
  | .tby => Sys2Proof.Machine.execTby s
  | .tda => Sys2Proof.Machine.execTda s
  | .tdb => Sys2Proof.Machine.execTdb s
  | .tsa => Sys2Proof.Machine.execTsa s
  | .tsb => Sys2Proof.Machine.execTsb s
  | .tsx => Sys2Proof.Machine.execTsx s
  | .txs => Sys2Proof.Machine.execTxs s
  | .txy => Sys2Proof.Machine.execTxy s
  | .txa => Sys2Proof.Machine.execTxa s
  | .txb => Sys2Proof.Machine.execTxb s
  | .tya => Sys2Proof.Machine.execTya s
  | .tyb => Sys2Proof.Machine.execTyb s
  | .tyx => Sys2Proof.Machine.execTyx s
  | .xab => Sys2Proof.Machine.execXab s
  -- stack (43_stack.md)
  | .psh nn => Sys2Proof.Machine.execPsh nn s
  | .pul nn => Sys2Proof.Machine.execPul nn s
  | .pea imm => Sys2Proof.Machine.execPea imm s
  | .pei dd => Sys2Proof.Machine.execPei dd s
  | .per imm => Sys2Proof.Machine.execPer imm s
  | .pha => Sys2Proof.Machine.execPha s
  | .phb => Sys2Proof.Machine.execPhb s
  | .phd => Sys2Proof.Machine.execPhd s
  | .phg => Sys2Proof.Machine.execPhg s
  | .php => Sys2Proof.Machine.execPhp s
  | .pht => Sys2Proof.Machine.execPht s
  | .phx => Sys2Proof.Machine.execPhx s
  | .phy => Sys2Proof.Machine.execPhy s
  | .pla => Sys2Proof.Machine.execPla s
  | .plb => Sys2Proof.Machine.execPlb s
  | .pld => Sys2Proof.Machine.execPld s
  | .plp => Sys2Proof.Machine.execPlp s
  | .plt => Sys2Proof.Machine.execPlt s
  | .plx => Sys2Proof.Machine.execPlx s
  | .ply => Sys2Proof.Machine.execPly s
  -- block transfer (44_block_transfer.md), destination bank first
  | .mvn n1 n2 => Sys2Proof.Machine.execMvn n1 n2 s
  | .mvp n1 n2 => Sys2Proof.Machine.execMvp n1 n2 s
  -- arithmetic (45_arithmetic.md)
  | .adc acc src => Sys2Proof.Machine.execAdc acc src s
  | .sbc acc src => Sys2Proof.Machine.execSbc acc src s
  | .inc dst => Sys2Proof.Machine.execInc dst s
  | .dec dst => Sys2Proof.Machine.execDec dst s
  | .inx => Sys2Proof.Machine.execInx s
  | .iny => Sys2Proof.Machine.execIny s
  | .dex => Sys2Proof.Machine.execDex s
  | .dey => Sys2Proof.Machine.execDey s
  | .mpy src => Sys2Proof.Machine.execMpy src s
  | .mpys src => Sys2Proof.Machine.execMpys src s
  | .div src => Sys2Proof.Machine.execDiv src s
  | .divs src => Sys2Proof.Machine.execDivs src s
  -- logic, compare, shift, rotate, extension (46_logic_compare_shift.md)
  | .and acc src => Sys2Proof.Machine.execAnd acc src s
  | .ora acc src => Sys2Proof.Machine.execOra acc src s
  | .eor acc src => Sys2Proof.Machine.execEor acc src s
  | .cmp acc src => Sys2Proof.Machine.execCmp acc src s
  | .cpx src => Sys2Proof.Machine.execCpx src s
  | .cpy src => Sys2Proof.Machine.execCpy src s
  | .asl dst => Sys2Proof.Machine.execAsl dst s
  | .asr dst => Sys2Proof.Machine.execAsr dst s
  | .lsr dst => Sys2Proof.Machine.execLsr dst s
  | .rol dst => Sys2Proof.Machine.execRol dst s
  | .ror dst => Sys2Proof.Machine.execRor dst s
  | .rla imm => Sys2Proof.Machine.execRla imm s
  | .exts acc => Sys2Proof.Machine.execExts acc s
  | .extz acc => Sys2Proof.Machine.execExtz acc s
  -- bits and flags (47_bit_and_flag.md)
  | .clb md imm => Sys2Proof.Machine.execClb md imm s
  | .seb md imm => Sys2Proof.Machine.execSeb md imm s
  | .clp imm => Sys2Proof.Machine.execClp imm s
  | .sep imm => Sys2Proof.Machine.execSep imm s
  | .clc => Sys2Proof.Machine.execClc s
  | .cli => Sys2Proof.Machine.execCli s
  | .clm => Sys2Proof.Machine.execClm s
  | .clv => Sys2Proof.Machine.execClv s
  | .sec => Sys2Proof.Machine.execSec s
  | .sei => Sys2Proof.Machine.execSei s
  | .sem => Sys2Proof.Machine.execSem s
  -- jumps, branches, calls and returns (48_branch_return.md)
  | .jmp t => Sys2Proof.Machine.execJmp t s
  | .jsr t => Sys2Proof.Machine.execJsr t s
  | .bra rel => Sys2Proof.Machine.execBra rel s
  | .bbc md imm rr => Sys2Proof.Machine.execBbc md imm rr s
  | .bbs md imm rr => Sys2Proof.Machine.execBbs md imm rr s
  | .bcc rr => Sys2Proof.Machine.execBcc rr s
  | .bcs rr => Sys2Proof.Machine.execBcs rr s
  | .beq rr => Sys2Proof.Machine.execBeq rr s
  | .bmi rr => Sys2Proof.Machine.execBmi rr s
  | .bne rr => Sys2Proof.Machine.execBne rr s
  | .bpl rr => Sys2Proof.Machine.execBpl rr s
  | .bvc rr => Sys2Proof.Machine.execBvc rr s
  | .bvs rr => Sys2Proof.Machine.execBvs rr s
  | .rts => Sys2Proof.Machine.execRts s
  | .rtl => Sys2Proof.Machine.execRtl s
  | .rti => Sys2Proof.Machine.execRti s
  -- break, no operation, stop and wait (49_interrupt_special_other.md)
  | .brk nn => Sys2Proof.Machine.execBrk nn s
  | .nop => Sys2Proof.Machine.execNop s
  | .stp => Sys2Proof.Machine.execStp s
  | .wit => Sys2Proof.Machine.execWit s

end Sys2Proof.Machine
end

