-- ==== Sys2Proof/WellFormed.lean ====
section
/-! DEFINITION. Which terms of Instr are instructions: the immediate has the length that flag m or x selects (R98), the
addressing mode is one the instruction has (R154), and the 7750-only instructions exist on the 7750 Series only (R3). -/

namespace Sys2Proof

/-- What decoding depends on besides the bytes: the series (R3) and the flags m and x (R93). -/
structure DecodeCtx where
  series7750 : Bool
  m : Bool
  x : Bool
  deriving DecidableEq, Repr

/-- The immediate is one byte long exactly when its selecting flag is 1 (R98). -/
def Imm.fits (flag : Bool) : Imm → Bool
  | .byte _ => flag
  | .word _ => !flag

/-- The 14 memory modes of the accumulator instructions (R154): all but direct indexed Y. -/
def Mode.isGeneral : Mode → Bool
  | .dirY _ => false
  | _ => true

/-- Direct, direct indexed X, absolute, absolute indexed X (R154). -/
def Mode.isDirAbsX : Mode → Bool
  | .dir _ | .dirX _ | .abs _ | .absX _ => true
  | _ => false

/-- Direct and absolute (R154). -/
def Mode.isDirAbs : Mode → Bool
  | .dir _ | .abs _ => true
  | _ => false

/-- The memory modes of LDX (R154). -/
def Mode.isLdx : Mode → Bool
  | .dir _ | .dirY _ | .abs _ | .absY _ => true
  | _ => false

/-- The modes of STX (R154). -/
def Mode.isStx : Mode → Bool
  | .dir _ | .dirY _ | .abs _ => true
  | _ => false

/-- The modes of STY (R154). -/
def Mode.isSty : Mode → Bool
  | .dir _ | .dirX _ | .abs _ => true
  | _ => false

/-- A source operand whose immediate has the length of `flag` and whose mode is allowed. -/
def Src.ok (flag : Bool) (allowed : Mode → Bool) : Src → Bool
  | .imm i => i.fits flag
  | .mem md => allowed md

/-- An operand changed in place: an accumulator, or one of four memory modes (R154). -/
def Dst.ok : Dst → Bool
  | .acc _ => true
  | .mem md => md.isDirAbsX

/-- The operands of JSR (R154). -/
def Target.isJsr : Target → Bool
  | .abs _ | .absL _ | .indX _ => true
  | .ind _ | .indL _ => false

/-- The terms that are instructions in the context `c`. -/
def Instr.wellFormed (c : DecodeCtx) : Instr → Bool
  | .lda _ src | .adc _ src | .sbc _ src | .and _ src | .ora _ src | .eor _ src | .cmp _ src =>
    src.ok c.m Mode.isGeneral
  | .mpy src | .div src => src.ok c.m Mode.isGeneral
  | .mpys src | .divs src => c.series7750 && src.ok c.m Mode.isGeneral
  | .sta _ md => md.isGeneral
  | .ldm md imm => md.isDirAbsX && imm.fits c.m
  | .ldx src => src.ok c.x Mode.isLdx
  | .ldy src => src.ok c.x Mode.isDirAbsX
  | .cpx src | .cpy src => src.ok c.x Mode.isDirAbs
  | .stx md => md.isStx
  | .sty md => md.isSty
  | .inc dst | .dec dst | .asl dst | .lsr dst | .rol dst | .ror dst => dst.ok
  | .asr dst => c.series7750 && dst.ok
  | .exts _ | .extz _ => c.series7750
  | .rla imm => imm.fits c.m
  | .clb md imm | .seb md imm | .bbc md imm _ | .bbs md imm _ => md.isDirAbs && imm.fits c.m
  | .jsr t => t.isJsr
  | .jmp _ | .bra _ => true
  | .ldt _ | .tad | .tas | .tax | .tay | .tbd | .tbs | .tbx | .tby | .tda | .tdb | .tsa | .tsb | .tsx | .txs
  | .txy | .txa | .txb | .tya | .tyb | .tyx | .xab => true
  | .psh _ | .pul _ | .pea _ | .pei _ | .per _ | .pha | .phb | .phd | .phg | .php | .pht | .phx | .phy
  | .pla | .plb | .pld | .plp | .plt | .plx | .ply | .mvn _ _ | .mvp _ _ => true
  | .inx | .iny | .dex | .dey => true
  | .clp _ | .sep _ | .clc | .cli | .clm | .clv | .sec | .sei | .sem => true
  | .bcc _ | .bcs _ | .beq _ | .bmi _ | .bne _ | .bpl _ | .bvc _ | .bvs _ | .rts | .rtl | .rti => true
  | .brk _ | .nop | .stp | .wit => true

end Sys2Proof
end

