-- ==== Sys2Proof/Decode.lean ====
section
/-! DEFINITION. The decoder of R104 to R107, total on any bytes and rejecting by name, and the encoder after it, both from
the formats of R103 and the instruction code tables. -/

namespace Sys2Proof

/-- Why a byte sequence is not decoded. -/
inductive DecodeError where
  /-- No instruction has these leading bytes on this series (R109). -/
  | undefinedOpcode (bytes : List Byte)
  /-- The bytes end before the instruction does. The machine always offers the six bytes of the longest one (R90). -/
  | truncated
  deriving DecidableEq, Repr

/-- Two operand bytes, low byte first (R99). -/
def wordOf (lo hi : Byte) : Word := hi ++ lo

/-- Three address bytes, low, middle, high (R99). -/
def addrOf (lo mid hi : Byte) : Addr := hi ++ (mid ++ lo)

/-- The low byte of a word. -/
def wordLo (v : Word) : Byte := v.extractLsb' 0 8

/-- The high byte of a word. -/
def wordHi (v : Word) : Byte := v.extractLsb' 8 8

/-- What follows the operation code (R103), with the instruction that the operands make. -/
inductive Template where
  /-- `IMP`, `ACC`, `STK`: nothing follows. -/
  | plain (i : Instr)
  /-- `IMM_M`: an immediate whose length follows flag m. -/
  | immM (k : Imm → Instr)
  /-- `IMM_X`: an immediate whose length follows flag x. -/
  | immX (k : Imm → Instr)
  /-- `IMM8`, the `DIR` formats, `SR`, `SR_IND_Y`, `REL8`: one byte. -/
  | byte (k : Byte → Instr)
  /-- `IMM16`, the `ABS` formats, `REL16`: two bytes. -/
  | word (k : Word → Instr)
  /-- `ABL`, `ABL_X`: three bytes. -/
  | long (k : Addr → Instr)
  /-- `DIR_BIT`, `DIR_IMM`, `DIR_X_IMM`. -/
  | byteImm (k : Byte → Imm → Instr)
  /-- `ABS_BIT`, `ABS_IMM`, `ABS_X_IMM`. -/
  | wordImm (k : Word → Imm → Instr)
  /-- `DIR_BIT_REL`. -/
  | byteImmRel (k : Byte → Imm → Byte → Instr)
  /-- `ABS_BIT_REL`. -/
  | wordImmRel (k : Word → Imm → Byte → Instr)
  /-- `BLK`. -/
  | twoBytes (k : Byte → Byte → Instr)

/-- An immediate whose selecting flag is `flag`, and the bytes after it (R98). -/
def takeImm (flag : Bool) (bytes : List Byte) : Option (Imm × List Byte) :=
  match flag, bytes with
  | true, b :: rest => some (.byte b, rest)
  | false, lo :: hi :: rest => some (.word (wordOf lo hi), rest)
  | _, _ => none

/-- Reads the operand bytes of a format, address bytes first, then the immediate, then the offset (R101). -/
def Template.fill (c : DecodeCtx) (t : Template) (bytes : List Byte) : Option (Instr × List Byte) :=
  match t, bytes with
  | .plain i, rest => some (i, rest)
  | .immM k, rest => (takeImm c.m rest).map fun p => (k p.1, p.2)
  | .immX k, rest => (takeImm c.x rest).map fun p => (k p.1, p.2)
  | .byte k, b :: rest => some (k b, rest)
  | .word k, lo :: hi :: rest => some (k (wordOf lo hi), rest)
  | .long k, lo :: mid :: hi :: rest => some (k (addrOf lo mid hi), rest)
  | .byteImm k, b :: rest => (takeImm c.m rest).map fun p => (k b p.1, p.2)
  | .wordImm k, lo :: hi :: rest => (takeImm c.m rest).map fun p => (k (wordOf lo hi) p.1, p.2)
  | .byteImmRel k, b :: rest =>
    match takeImm c.m rest with
    | some (imm, rr :: rest') => some (k b imm rr, rest')
    | _ => none
  | .wordImmRel k, lo :: hi :: rest =>
    match takeImm c.m rest with
    | some (imm, rr :: rest') => some (k (wordOf lo hi) imm rr, rest')
    | _ => none
  | .twoBytes k, b1 :: b2 :: rest => some (k b1 b2, rest)
  | _, _ => none

/-- The 14 memory modes of the accumulator instructions by the low five bits of the operation code (R104, R107). -/
def memColumn (k : Mode → Instr) (col : Nat) : Option Template :=
  match col with
  | 0x01 => some (.byte fun dd => k (.dirXInd dd))
  | 0x03 => some (.byte fun nn => k (.sr nn))
  | 0x05 => some (.byte fun dd => k (.dir dd))
  | 0x07 => some (.byte fun dd => k (.dirIndL dd))
  | 0x0D => some (.word fun a => k (.abs a))
  | 0x0F => some (.long fun a => k (.absL a))
  | 0x11 => some (.byte fun dd => k (.dirIndY dd))
  | 0x12 => some (.byte fun dd => k (.dirInd dd))
  | 0x13 => some (.byte fun nn => k (.srIndY nn))
  | 0x15 => some (.byte fun dd => k (.dirX dd))
  | 0x17 => some (.byte fun dd => k (.dirIndLY dd))
  | 0x19 => some (.word fun a => k (.absY a))
  | 0x1D => some (.word fun a => k (.absX a))
  | 0x1F => some (.long fun a => k (.absLX a))
  | _ => none

/-- The 15 modes of an accumulator instruction: immediate and the memory modes (R104, R107). -/
def srcColumn (k : Src → Instr) (col : Nat) : Option Template :=
  match col with
  | 0x09 => some (.immM fun imm => k (.imm imm))
  | _ => memColumn (fun md => k (.mem md)) col

/-- The eight accumulator instructions: operation codes of table 1, and of table 2 with B (R104, R105, R107). -/
def accTable (acc : Acc) (op : Nat) : Option Template :=
  match op / 0x20 with
  | 0 => srcColumn (.ora acc) (op % 0x20)
  | 1 => srcColumn (.and acc) (op % 0x20)
  | 2 => srcColumn (.eor acc) (op % 0x20)
  | 3 => srcColumn (.adc acc) (op % 0x20)
  | 4 => memColumn (.sta acc) (op % 0x20)
  | 5 => srcColumn (.lda acc) (op % 0x20)
  | 6 => srcColumn (.cmp acc) (op % 0x20)
  | 7 => srcColumn (.sbc acc) (op % 0x20)
  | _ => none

/-- Table 1 (R104) less the eight accumulator instructions. 02h, 42h and 89h are no instructions. -/
def table1Rest (op : Nat) : Option Template :=
  match op with
  | 0x00 => some (.byte .brk)
  | 0x04 => some (.byteImm fun dd imm => .seb (.dir dd) imm)
  | 0x06 => some (.byte fun dd => .asl (.mem (.dir dd)))
  | 0x08 => some (.plain .php)
  | 0x0A => some (.plain (.asl (.acc .a)))
  | 0x0B => some (.plain .phd)
  | 0x0C => some (.wordImm fun a imm => .seb (.abs a) imm)
  | 0x0E => some (.word fun a => .asl (.mem (.abs a)))
  | 0x10 => some (.byte .bpl)
  | 0x14 => some (.byteImm fun dd imm => .clb (.dir dd) imm)
  | 0x16 => some (.byte fun dd => .asl (.mem (.dirX dd)))
  | 0x18 => some (.plain .clc)
  | 0x1A => some (.plain (.dec (.acc .a)))
  | 0x1B => some (.plain .tas)
  | 0x1C => some (.wordImm fun a imm => .clb (.abs a) imm)
  | 0x1E => some (.word fun a => .asl (.mem (.absX a)))
  | 0x20 => some (.word fun a => .jsr (.abs a))
  | 0x22 => some (.long fun a => .jsr (.absL a))
  | 0x24 => some (.byteImmRel fun dd imm rr => .bbs (.dir dd) imm rr)
  | 0x26 => some (.byte fun dd => .rol (.mem (.dir dd)))
  | 0x28 => some (.plain .plp)
  | 0x2A => some (.plain (.rol (.acc .a)))
  | 0x2B => some (.plain .pld)
  | 0x2C => some (.wordImmRel fun a imm rr => .bbs (.abs a) imm rr)
  | 0x2E => some (.word fun a => .rol (.mem (.abs a)))
  | 0x30 => some (.byte .bmi)
  | 0x34 => some (.byteImmRel fun dd imm rr => .bbc (.dir dd) imm rr)
  | 0x36 => some (.byte fun dd => .rol (.mem (.dirX dd)))
  | 0x38 => some (.plain .sec)
  | 0x3A => some (.plain (.inc (.acc .a)))
  | 0x3B => some (.plain .tsa)
  | 0x3C => some (.wordImmRel fun a imm rr => .bbc (.abs a) imm rr)
  | 0x3E => some (.word fun a => .rol (.mem (.absX a)))
  | 0x40 => some (.plain .rti)
  | 0x44 => some (.twoBytes .mvp)
  | 0x46 => some (.byte fun dd => .lsr (.mem (.dir dd)))
  | 0x48 => some (.plain .pha)
  | 0x4A => some (.plain (.lsr (.acc .a)))
  | 0x4B => some (.plain .phg)
  | 0x4C => some (.word fun a => .jmp (.abs a))
  | 0x4E => some (.word fun a => .lsr (.mem (.abs a)))
  | 0x50 => some (.byte .bvc)
  | 0x54 => some (.twoBytes .mvn)
  | 0x56 => some (.byte fun dd => .lsr (.mem (.dirX dd)))
  | 0x58 => some (.plain .cli)
  | 0x5A => some (.plain .phy)
  | 0x5B => some (.plain .tad)
  | 0x5C => some (.long fun a => .jmp (.absL a))
  | 0x5E => some (.word fun a => .lsr (.mem (.absX a)))
  | 0x60 => some (.plain .rts)
  | 0x62 => some (.word .per)
  | 0x64 => some (.byteImm fun dd imm => .ldm (.dir dd) imm)
  | 0x66 => some (.byte fun dd => .ror (.mem (.dir dd)))
  | 0x68 => some (.plain .pla)
  | 0x6A => some (.plain (.ror (.acc .a)))
  | 0x6B => some (.plain .rtl)
  | 0x6C => some (.word fun a => .jmp (.ind a))
  | 0x6E => some (.word fun a => .ror (.mem (.abs a)))
  | 0x70 => some (.byte .bvs)
  | 0x74 => some (.byteImm fun dd imm => .ldm (.dirX dd) imm)
  | 0x76 => some (.byte fun dd => .ror (.mem (.dirX dd)))
  | 0x78 => some (.plain .sei)
  | 0x7A => some (.plain .ply)
  | 0x7B => some (.plain .tda)
  | 0x7C => some (.word fun a => .jmp (.indX a))
  | 0x7E => some (.word fun a => .ror (.mem (.absX a)))
  | 0x80 => some (.byte fun rr => .bra (.short rr))
  | 0x82 => some (.word fun rr => .bra (.long rr))
  | 0x84 => some (.byte fun dd => .sty (.dir dd))
  | 0x86 => some (.byte fun dd => .stx (.dir dd))
  | 0x88 => some (.plain .dey)
  | 0x8A => some (.plain .txa)
  | 0x8B => some (.plain .pht)
  | 0x8C => some (.word fun a => .sty (.abs a))
  | 0x8E => some (.word fun a => .stx (.abs a))
  | 0x90 => some (.byte .bcc)
  | 0x94 => some (.byte fun dd => .sty (.dirX dd))
  | 0x96 => some (.byte fun dd => .stx (.dirY dd))
  | 0x98 => some (.plain .tya)
  | 0x9A => some (.plain .txs)
  | 0x9B => some (.plain .txy)
  | 0x9C => some (.wordImm fun a imm => .ldm (.abs a) imm)
  | 0x9E => some (.wordImm fun a imm => .ldm (.absX a) imm)
  | 0xA0 => some (.immX fun imm => .ldy (.imm imm))
  | 0xA2 => some (.immX fun imm => .ldx (.imm imm))
  | 0xA4 => some (.byte fun dd => .ldy (.mem (.dir dd)))
  | 0xA6 => some (.byte fun dd => .ldx (.mem (.dir dd)))
  | 0xA8 => some (.plain .tay)
  | 0xAA => some (.plain .tax)
  | 0xAB => some (.plain .plt)
  | 0xAC => some (.word fun a => .ldy (.mem (.abs a)))
  | 0xAE => some (.word fun a => .ldx (.mem (.abs a)))
  | 0xB0 => some (.byte .bcs)
  | 0xB4 => some (.byte fun dd => .ldy (.mem (.dirX dd)))
  | 0xB6 => some (.byte fun dd => .ldx (.mem (.dirY dd)))
  | 0xB8 => some (.plain .clv)
  | 0xBA => some (.plain .tsx)
  | 0xBB => some (.plain .tyx)
  | 0xBC => some (.word fun a => .ldy (.mem (.absX a)))
  | 0xBE => some (.word fun a => .ldx (.mem (.absY a)))
  | 0xC0 => some (.immX fun imm => .cpy (.imm imm))
  | 0xC2 => some (.byte .clp)
  | 0xC4 => some (.byte fun dd => .cpy (.mem (.dir dd)))
  | 0xC6 => some (.byte fun dd => .dec (.mem (.dir dd)))
  | 0xC8 => some (.plain .iny)
  | 0xCA => some (.plain .dex)
  | 0xCB => some (.plain .wit)
  | 0xCC => some (.word fun a => .cpy (.mem (.abs a)))
  | 0xCE => some (.word fun a => .dec (.mem (.abs a)))
  | 0xD0 => some (.byte .bne)
  | 0xD4 => some (.byte .pei)
  | 0xD6 => some (.byte fun dd => .dec (.mem (.dirX dd)))
  | 0xD8 => some (.plain .clm)
  | 0xDA => some (.plain .phx)
  | 0xDB => some (.plain .stp)
  | 0xDC => some (.word fun a => .jmp (.indL a))
  | 0xDE => some (.word fun a => .dec (.mem (.absX a)))
  | 0xE0 => some (.immX fun imm => .cpx (.imm imm))
  | 0xE2 => some (.byte .sep)
  | 0xE4 => some (.byte fun dd => .cpx (.mem (.dir dd)))
  | 0xE6 => some (.byte fun dd => .inc (.mem (.dir dd)))
  | 0xE8 => some (.plain .inx)
  | 0xEA => some (.plain .nop)
  | 0xEB => some (.byte .psh)
  | 0xEC => some (.word fun a => .cpx (.mem (.abs a)))
  | 0xEE => some (.word fun a => .inc (.mem (.abs a)))
  | 0xF0 => some (.byte .beq)
  | 0xF4 => some (.word .pea)
  | 0xF6 => some (.byte fun dd => .inc (.mem (.dirX dd)))
  | 0xF8 => some (.plain .sem)
  | 0xFA => some (.plain .plx)
  | 0xFB => some (.byte .pul)
  | 0xFC => some (.word fun a => .jsr (.indX a))
  | 0xFE => some (.word fun a => .inc (.mem (.absX a)))
  | _ => none

/-- Table 1: the first byte, no prefix (R104). -/
def table1 (op : Nat) : Option Template :=
  match accTable .a op with
  | some t => some t
  | none => table1Rest op

/-- The three codes of table 2 that exist on the 7750 Series only (R105). -/
def table2Only7750 (op : Nat) : Option Template :=
  match op with
  | 0x08 => some (.plain (.asr (.acc .b)))
  | 0x8B => some (.plain (.exts .b))
  | 0xAB => some (.plain (.extz .b))
  | _ => none

/-- The single codes of table 2 (R105). -/
def table2Rest (op : Nat) : Option Template :=
  match op with
  | 0x0A => some (.plain (.asl (.acc .b)))
  | 0x1A => some (.plain (.dec (.acc .b)))
  | 0x1B => some (.plain .tbs)
  | 0x2A => some (.plain (.rol (.acc .b)))
  | 0x3A => some (.plain (.inc (.acc .b)))
  | 0x3B => some (.plain .tsb)
  | 0x48 => some (.plain .phb)
  | 0x4A => some (.plain (.lsr (.acc .b)))
  | 0x5B => some (.plain .tbd)
  | 0x68 => some (.plain .plb)
  | 0x6A => some (.plain (.ror (.acc .b)))
  | 0x7B => some (.plain .tdb)
  | 0x8A => some (.plain .txb)
  | 0x98 => some (.plain .tyb)
  | 0xA8 => some (.plain .tby)
  | 0xAA => some (.plain .tbx)
  | _ => none

/-- Table 2: the byte after 42h (R105). -/
def table2 (series7750 : Bool) (op : Nat) : Option Template :=
  match accTable .b op with
  | some t => some t
  | none =>
    match table2Rest op with
    | some t => some t
    | none => if series7750 then table2Only7750 op else none

/-- The codes of table 3 that exist on the 7750 Series only (R106). -/
def table3Only7750 (op : Nat) : Option Template :=
  match op with
  | 0x06 => some (.byte fun dd => .asr (.mem (.dir dd)))
  | 0x08 => some (.plain (.asr (.acc .a)))
  | 0x0E => some (.word fun a => .asr (.mem (.abs a)))
  | 0x16 => some (.byte fun dd => .asr (.mem (.dirX dd)))
  | 0x1E => some (.word fun a => .asr (.mem (.absX a)))
  | 0x8B => some (.plain (.exts .a))
  | 0xAB => some (.plain (.extz .a))
  | _ =>
    match op / 0x20 with
    | 4 => srcColumn .mpys (op % 0x20)
    | 5 => srcColumn .divs (op % 0x20)
    | _ => none

/-- The codes of table 3 that every series has (R106). -/
def table3Rest (op : Nat) : Option Template :=
  match op with
  | 0x28 => some (.plain .xab)
  | 0x49 => some (.immM .rla)
  | 0xC2 => some (.byte .ldt)
  | _ =>
    match op / 0x20 with
    | 0 => srcColumn .mpy (op % 0x20)
    | 1 => srcColumn .div (op % 0x20)
    | _ => none

/-- Table 3: the byte after 89h (R106). -/
def table3 (series7750 : Bool) (op : Nat) : Option Template :=
  match table3Rest op with
  | some t => some t
  | none => if series7750 then table3Only7750 op else none

/-- Fills the template found for `op`, or names the undefined code (R109). -/
def decodeWith (c : DecodeCtx) (found : Option Template) (op : List Byte) (rest : List Byte) :
    Except DecodeError (Instr × List Byte) :=
  match found with
  | none => .error (.undefinedOpcode op)
  | some t =>
    match t.fill c rest with
    | some r => .ok r
    | none => .error .truncated

/-- The instruction at the start of `bytes`, and the bytes after it (R93, R107). -/
def decode (c : DecodeCtx) (bytes : List Byte) : Except DecodeError (Instr × List Byte) :=
  match bytes with
  | [] => .error .truncated
  | b0 :: rest =>
    if b0 = 0x42#8 then
      match rest with
      | [] => .error .truncated
      | b1 :: rest' => decodeWith c (table2 c.series7750 b1.toNat) [b0, b1] rest'
    else if b0 = 0x89#8 then
      match rest with
      | [] => .error .truncated
      | b1 :: rest' => decodeWith c (table3 c.series7750 b1.toNat) [b0, b1] rest'
    else decodeWith c (table1 b0.toNat) [b0] rest

/-! ## The encoder -/

/-- The bytes of a 16-bit operand, low byte first (R99). -/
def wordBytes (v : Word) : List Byte := [wordLo v, wordHi v]

/-- The bytes of a 24-bit operand: low, middle, high (R99). -/
def addrBytes (a : Addr) : List Byte := [a.extractLsb' 0 8, a.extractLsb' 8 8, a.extractLsb' 16 8]

/-- The bytes of an immediate (R98). -/
def Imm.bytes : Imm → List Byte
  | .byte v => [v]
  | .word v => wordBytes v

/-- The prefix byte of the accumulator: none for A, 42h for B (R95). -/
def Acc.lead : Acc → List Byte
  | .a => []
  | .b => [0x42#8]

/-- Operation code and operand bytes of a memory mode of the accumulator instruction whose block starts at `base`. Direct
indexed Y is no mode of theirs (R154). -/
def Mode.encodeAt (base : Byte) : Mode → List Byte
  | .dirXInd dd => [base + 0x01#8, dd]
  | .sr nn => [base + 0x03#8, nn]
  | .dir dd => [base + 0x05#8, dd]
  | .dirIndL dd => [base + 0x07#8, dd]
  | .abs a => (base + 0x0D#8) :: wordBytes a
  | .absL a => (base + 0x0F#8) :: addrBytes a
  | .dirIndY dd => [base + 0x11#8, dd]
  | .dirInd dd => [base + 0x12#8, dd]
  | .srIndY nn => [base + 0x13#8, nn]
  | .dirX dd => [base + 0x15#8, dd]
  | .dirIndLY dd => [base + 0x17#8, dd]
  | .absY a => (base + 0x19#8) :: wordBytes a
  | .absX a => (base + 0x1D#8) :: wordBytes a
  | .absLX a => (base + 0x1F#8) :: addrBytes a
  | .dirY _ => []

/-- Operation code and operand bytes of a source operand, as `Mode.encodeAt`. -/
def Src.encodeAt (base : Byte) : Src → List Byte
  | .imm i => (base + 0x09#8) :: i.bytes
  | .mem md => md.encodeAt base

/-- Operation code and operand bytes where each of the few modes has its own code; no bytes for a mode without one. -/
def Mode.encodeBy (code : Mode → Option Byte) (md : Mode) : List Byte :=
  match code md with
  | none => []
  | some op =>
    match md with
    | .dir b | .dirX b | .dirY b | .dirInd b | .dirXInd b | .dirIndY b | .dirIndL b | .dirIndLY b
    | .sr b | .srIndY b => [op, b]
    | .abs a | .absX a | .absY a => op :: wordBytes a
    | .absL a | .absLX a => op :: addrBytes a

/-- Codes of an instruction with the modes direct, direct indexed X, absolute, absolute indexed X. -/
def codesDirAbsX (d dx a ax : Byte) : Mode → Option Byte
  | .dir _ => some d
  | .dirX _ => some dx
  | .abs _ => some a
  | .absX _ => some ax
  | _ => none

/-- Codes of an instruction with the modes direct and absolute. -/
def codesDirAbs (d a : Byte) : Mode → Option Byte
  | .dir _ => some d
  | .abs _ => some a
  | _ => none

/-- The shifts, INC and DEC of table 1: the accumulator code, and the direct code from which the others follow. -/
def Dst.encodeAt (accCode dirCode : Byte) : Dst → List Byte
  | .acc r => r.lead ++ [accCode]
  | .mem md => md.encodeBy (codesDirAbsX dirCode (dirCode + 0x10#8) (dirCode + 0x08#8) (dirCode + 0x18#8))

/-- The bytes of a well-formed instruction (R103 to R106). -/
def encode : Instr → List Byte
  | .lda r src => r.lead ++ src.encodeAt 0xA0#8
  | .ldm md imm => md.encodeBy (codesDirAbsX 0x64#8 0x74#8 0x9C#8 0x9E#8) ++ imm.bytes
  | .ldt imm => [0x89#8, 0xC2#8, imm]
  | .ldx (.imm imm) => 0xA2#8 :: imm.bytes
  | .ldx (.mem md) => md.encodeBy fun
      | .dir _ => some 0xA6#8 | .dirY _ => some 0xB6#8 | .abs _ => some 0xAE#8 | .absY _ => some 0xBE#8 | _ => none
  | .ldy (.imm imm) => 0xA0#8 :: imm.bytes
  | .ldy (.mem md) => md.encodeBy (codesDirAbsX 0xA4#8 0xB4#8 0xAC#8 0xBC#8)
  | .sta r md => r.lead ++ md.encodeAt 0x80#8
  | .stx md => md.encodeBy fun
      | .dir _ => some 0x86#8 | .dirY _ => some 0x96#8 | .abs _ => some 0x8E#8 | _ => none
  | .sty md => md.encodeBy fun
      | .dir _ => some 0x84#8 | .dirX _ => some 0x94#8 | .abs _ => some 0x8C#8 | _ => none
  | .tad => [0x5B#8]
  | .tas => [0x1B#8]
  | .tax => [0xAA#8]
  | .tay => [0xA8#8]
  | .tbd => [0x42#8, 0x5B#8]
  | .tbs => [0x42#8, 0x1B#8]
  | .tbx => [0x42#8, 0xAA#8]
  | .tby => [0x42#8, 0xA8#8]
  | .tda => [0x7B#8]
  | .tdb => [0x42#8, 0x7B#8]
  | .tsa => [0x3B#8]
  | .tsb => [0x42#8, 0x3B#8]
  | .tsx => [0xBA#8]
  | .txs => [0x9A#8]
  | .txy => [0x9B#8]
  | .txa => [0x8A#8]
  | .txb => [0x42#8, 0x8A#8]
  | .tya => [0x98#8]
  | .tyb => [0x42#8, 0x98#8]
  | .tyx => [0xBB#8]
  | .xab => [0x89#8, 0x28#8]
  | .psh nn => [0xEB#8, nn]
  | .pul nn => [0xFB#8, nn]
  | .pea imm => 0xF4#8 :: wordBytes imm
  | .pei dd => [0xD4#8, dd]
  | .per imm => 0x62#8 :: wordBytes imm
  | .pha => [0x48#8]
  | .phb => [0x42#8, 0x48#8]
  | .phd => [0x0B#8]
  | .phg => [0x4B#8]
  | .php => [0x08#8]
  | .pht => [0x8B#8]
  | .phx => [0xDA#8]
  | .phy => [0x5A#8]
  | .pla => [0x68#8]
  | .plb => [0x42#8, 0x68#8]
  | .pld => [0x2B#8]
  | .plp => [0x28#8]
  | .plt => [0xAB#8]
  | .plx => [0xFA#8]
  | .ply => [0x7A#8]
  | .mvn n1 n2 => [0x54#8, n1, n2]
  | .mvp n1 n2 => [0x44#8, n1, n2]
  | .adc r src => r.lead ++ src.encodeAt 0x60#8
  | .sbc r src => r.lead ++ src.encodeAt 0xE0#8
  | .inc dst => dst.encodeAt 0x3A#8 0xE6#8
  | .dec dst => dst.encodeAt 0x1A#8 0xC6#8
  | .inx => [0xE8#8]
  | .iny => [0xC8#8]
  | .dex => [0xCA#8]
  | .dey => [0x88#8]
  | .mpy src => 0x89#8 :: src.encodeAt 0x00#8
  | .mpys src => 0x89#8 :: src.encodeAt 0x80#8
  | .div src => 0x89#8 :: src.encodeAt 0x20#8
  | .divs src => 0x89#8 :: src.encodeAt 0xA0#8
  | .and r src => r.lead ++ src.encodeAt 0x20#8
  | .ora r src => r.lead ++ src.encodeAt 0x00#8
  | .eor r src => r.lead ++ src.encodeAt 0x40#8
  | .cmp r src => r.lead ++ src.encodeAt 0xC0#8
  | .cpx (.imm imm) => 0xE0#8 :: imm.bytes
  | .cpx (.mem md) => md.encodeBy (codesDirAbs 0xE4#8 0xEC#8)
  | .cpy (.imm imm) => 0xC0#8 :: imm.bytes
  | .cpy (.mem md) => md.encodeBy (codesDirAbs 0xC4#8 0xCC#8)
  | .asl dst => dst.encodeAt 0x0A#8 0x06#8
  | .asr (.acc .a) => [0x89#8, 0x08#8]
  | .asr (.acc .b) => [0x42#8, 0x08#8]
  | .asr (.mem md) => 0x89#8 :: md.encodeBy (codesDirAbsX 0x06#8 0x16#8 0x0E#8 0x1E#8)
  | .lsr dst => dst.encodeAt 0x4A#8 0x46#8
  | .rol dst => dst.encodeAt 0x2A#8 0x26#8
  | .ror dst => dst.encodeAt 0x6A#8 0x66#8
  | .rla imm => 0x89#8 :: 0x49#8 :: imm.bytes
  | .exts .a => [0x89#8, 0x8B#8]
  | .exts .b => [0x42#8, 0x8B#8]
  | .extz .a => [0x89#8, 0xAB#8]
  | .extz .b => [0x42#8, 0xAB#8]
  | .clb md imm => md.encodeBy (codesDirAbs 0x14#8 0x1C#8) ++ imm.bytes
  | .seb md imm => md.encodeBy (codesDirAbs 0x04#8 0x0C#8) ++ imm.bytes
  | .clp imm => [0xC2#8, imm]
  | .sep imm => [0xE2#8, imm]
  | .clc => [0x18#8]
  | .cli => [0x58#8]
  | .clm => [0xD8#8]
  | .clv => [0xB8#8]
  | .sec => [0x38#8]
  | .sei => [0x78#8]
  | .sem => [0xF8#8]
  | .jmp (.abs a) => 0x4C#8 :: wordBytes a
  | .jmp (.absL a) => 0x5C#8 :: addrBytes a
  | .jmp (.ind a) => 0x6C#8 :: wordBytes a
  | .jmp (.indL a) => 0xDC#8 :: wordBytes a
  | .jmp (.indX a) => 0x7C#8 :: wordBytes a
  | .jsr (.abs a) => 0x20#8 :: wordBytes a
  | .jsr (.absL a) => 0x22#8 :: addrBytes a
  | .jsr (.indX a) => 0xFC#8 :: wordBytes a
  | .jsr (.ind _) => []
  | .jsr (.indL _) => []
  | .bra (.short rr) => [0x80#8, rr]
  | .bra (.long rr) => 0x82#8 :: wordBytes rr
  | .bbc md imm rr => md.encodeBy (codesDirAbs 0x34#8 0x3C#8) ++ imm.bytes ++ [rr]
  | .bbs md imm rr => md.encodeBy (codesDirAbs 0x24#8 0x2C#8) ++ imm.bytes ++ [rr]
  | .bcc rr => [0x90#8, rr]
  | .bcs rr => [0xB0#8, rr]
  | .beq rr => [0xF0#8, rr]
  | .bmi rr => [0x30#8, rr]
  | .bne rr => [0xD0#8, rr]
  | .bpl rr => [0x10#8, rr]
  | .bvc rr => [0x50#8, rr]
  | .bvs rr => [0x70#8, rr]
  | .rts => [0x60#8]
  | .rtl => [0x6B#8]
  | .rti => [0x40#8]
  | .brk nn => [0x00#8, nn]
  | .nop => [0xEA#8]
  | .stp => [0xDB#8]
  | .wit => [0xCB#8]

/-! ## Words as the opcode table numbers them -/

/-- Byte `k` of the number `w`. -/
def byteOf (w k : Nat) : Byte := BitVec.ofNat 8 (w / 256 ^ k)

/-- Whether a byte is one of the two prefix bytes (R90). -/
def isPrefixByte (b : Byte) : Bool := b = 0x42#8 || b = 0x89#8

/-- The six bytes, in memory order, of an instruction whose table bits are `w`. A row of 16 bits is a prefix byte and an
operation code; opcode_table.json writes the prefix in bits 15 to 8, so where that byte is a prefix the two are taken in
that order, and otherwise the first byte is bits 7 to 0 (log 2). -/
def tableWordBytes (nbits w : Nat) : List Byte :=
  if nbits = 16 && isPrefixByte (byteOf w 1) then [byteOf w 1, byteOf w 0, 0, 0, 0, 0]
  else [byteOf w 0, byteOf w 1, byteOf w 2, byteOf w 3, byteOf w 4, byteOf w 5]

/-- The context right after reset: m = x = 0 (R48), the series of the default platform (log 7). -/
def DecodeCtx.atReset : DecodeCtx := { series7750 := true, m := false, x := false }

/-- The instruction the decoder reads from the bits `w` of a table row, all operand bytes zero. -/
def decodeTableWord (nbits w : Nat) : Option Instr :=
  match decode .atReset (tableWordBytes (min nbits 48) w) with
  | .ok (i, _) => some i
  | .error _ => none

end Sys2Proof
end

