-- ==== Sys2Proof/Machine/Fetch.lean ====
section
/-! DEFINITION. Fetching an instruction's bytes (R92, R94), the advance of PG:PC (R68), the prefetch window (R82, R421), and how a
word is put where the next step fetches. -/

namespace Sys2Proof.Machine

/-- The bytes at `a` and after it, read in linear order one by one (R75, R92). -/
def State.bytesFrom (s : State) (a : Addr) (count : Nat) : List Byte :=
  match count with
  | 0 => []
  | n + 1 => s.read8 a :: State.bytesFrom (s.after8 a) (a + 1#24) n

/-- The state after the bytes at `a` and after it are read. -/
def State.afterBytes (s : State) (a : Addr) (count : Nat) : State :=
  match count with
  | 0 => s
  | n + 1 => State.afterBytes (s.after8 a) (a + 1#24) n

/-- What decoding depends on besides the bytes (R93). -/
def State.ctx (s : State) : DecodeCtx := { series7750 := s.plat.series7750, m := s.ps.m, x := s.ps.x }

/-- The six bytes at PG:PC: no instruction is longer (R90, log 23). -/
def State.window (s : State) : List Byte := s.bytesFrom s.next 6

/-- The instruction at PG:PC and its length (R92, R107), or why there is none. -/
def State.fetch (s : State) : Except DecodeError (Instr × Nat) :=
  match decode s.ctx s.window with
  | .ok (i, rest) => .ok (i, 6 - rest.length)
  | .error e => .error e

/-- The `len` bytes of an instruction read, and `PG:PC <- na`, before any effect of the instruction (R92). -/
def State.advance (s : State) (len : Nat) : State :=
  (s.afterBytes s.next len).setNext (s.next + BitVec.ofNat 24 len)

/-- The bytes that an illegal code shows (R109). -/
def errorBytes (e : DecodeError) : List Byte :=
  match e with
  | .undefinedOpcode bytes => bytes
  | .truncated => []

/-! ## The prefetch window -/

/-- The addresses of `count` bytes from `a` on. -/
def addrsFrom (a : Addr) (count : Nat) : List Addr :=
  match count with
  | 0 => []
  | n + 1 => a :: addrsFrom (a + 1#24) n

/-- Whether an instruction that led from `u` to `t` changed the byte at `a` by a write (R421): memory differs there, or a
device has it and the instruction wrote to that address (log 15). -/
def byteChanged (u t : State) (a : Addr) : Bool :=
  match regionKind u.plat a with
  | .ram => Memory.read u.mem a.toNat != Memory.read t.mem a.toNat
  | .rom _ => false
  | .device _ _ => t.bus.written.contains a
  | .unmapped _ => false

/-- The state `t` after an instruction that began in `u` with PG:PC = na: a transfer of control leaves nothing prefetched,
otherwise the bytes changed in `[na, na + queueReach)` are added to those changed before (R82, R421). -/
def State.settle (u t : State) : State :=
  { t with stale := if t.jumped then [] else u.stale ++ (addrsFrom u.next u.plat.queueReach).filter (byteChanged u t) }

/-- Whether one of the `len` bytes at PG:PC was changed since control was last transferred (R82, R421). -/
def State.runsIntoStore (s : State) (len : Nat) : Bool := (addrsFrom s.next len).any fun a => s.stale.contains a

/-! ## Placing a word -/

/-- Bytes put into memory from `a` on, whatever the platform has there. -/
def placeBytes (mem : List Host.Cell) (a : Addr) (bytes : List Byte) : List Host.Cell :=
  match bytes with
  | [] => mem
  | v :: rest => placeBytes (Memory.write mem a.toNat v) (a + 1#24) rest

/-- Whether an address has memory behind it. -/
def hasMemory (p : Platform) (a : Addr) : Bool :=
  match regionKind p a with
  | .ram => true
  | .rom _ => true
  | .device _ _ => false
  | .unmapped _ => false

/-- The platform with RAM at each of the given addresses that it had no memory at. -/
def withMemoryAt (p : Platform) (addrs : List Addr) : Platform :=
  { p with map :=
      ((addrs.filter fun a => !hasMemory p a).map fun a =>
        { base := a.toNat, size := 1, kind := .ram }) ++ p.map }

/-- The state about to fetch at PG:PC: the reset vector read, running, nothing arriving at the coming boundary (log 3). -/
def State.readyToFetch (s : State) : State :=
  let t := if s.inReset then s.loadResetVector else s
  { t with
    run := .running
    stale := []
    inputs := match t.inputs with
      | [] => []
      | rest => quiet :: rest }

/-- Six bytes placed at PG:PC. -/
def State.placeAtNext (s : State) (bytes : List Byte) : State :=
  { s with mem := placeBytes s.mem s.next bytes, plat := withMemoryAt s.plat (addrsFrom s.next 6) }

end Sys2Proof.Machine
end

