-- ==== Sys2Proof/Machine/Step.lean ====
section
/-! DEFINITION. One step (R92, R381, R410, R421), and how a word is put where the next step fetches. -/

namespace Sys2Proof.Machine

/-- Fetch, decode, advance, execute (R92), with the refusals of R109 and R421. -/
def State.runNext (s : State) : Host.Outcome State Fault Refusal :=
  match s.fetch with
  | .error e =>
    if s.runsIntoStore (errorBytes e).length then .refused .storeIntoPrefetch
    else .refused (.illegalOpcode s.next (errorBytes e))
  | .ok (i, len) =>
    if s.runsIntoStore len then .refused .storeIntoPrefetch
    else
      match exec i (s.advance len) with
      | .next t => .next ((s.advance len).settle t)
      | .fault f => .fault f
      | .refused r => .refused r

/-- The outcome of a step, or the refusal of an access in it that the platform refuses (D6, log 28). -/
def ifAllowed (outcome : Host.Outcome State Fault Refusal) : Host.Outcome State Fault Refusal :=
  match outcome with
  | .next t =>
    match t.bus.denied with
    | none => .next t
    | some a => .refused (.accessRefused a)
  | .fault f => .fault f
  | .refused r => .refused r

/-- What a boundary leads to (R381, R392, R410). -/
def State.follow (s : State) (e : Event) : Host.Outcome State Fault Refusal :=
  match e with
  | .reset args => .next (s.resetEvent args)
  | .accept r => .next (s.accept r)
  | .wake => .next { s with run := .running }
  | .idle => .next s
  | .execute => s.runNext

/-- One step. Under reset the vector is read (R410); otherwise the boundary is evaluated (R381), and where nothing is
accepted and the machine runs, one instruction is executed. -/
def step (s : State) : Host.Outcome State Fault Refusal :=
  if s.inReset then ifAllowed (.next s.allowed.loadResetVector)
  else ifAllowed (s.beginStep.follow s.event)

/-- `s` with the instruction whose table bits are `w` placed where the next step fetches (log 2, log 3). -/
def State.withFetchWord (s : State) (nbits w : Nat) : State :=
  s.readyToFetch.placeAtNext (tableWordBytes (min nbits 48) w)

end Sys2Proof.Machine
end

