-- ==== Sys2Proof/Safety.lean ====
section
/-! DEFINITION. The terms that statements about the machine use: the invariant of memory, what a run that is not refused is,
and the effects of the spec said in numbers, apart from the operations of the machine: operands, the low bits of a register,
N and Z, the bytes that a store or a push leaves. -/

namespace Sys2Proof.Machine

/-! ## Runs -/

/-- The invariant: memory is in its canonical form. -/
def State.MemOk (s : State) : Prop := Memory.wf s.mem = true

/-- The step gives a next state: it is not refused. -/
def State.Progresses (s : State) : Prop := ∃ t, step s = .next t

/-- A run of `n` steps that is not refused. -/
def State.RunsFor (s : State) (n : Nat) : Prop :=
  match n with
  | 0 => True
  | n + 1 => ∃ t, step s = .next t ∧ t.RunsFor n

/-- Nothing interferes with the coming step: no reset under way, no reset or acceptable request at the boundary, the CPU
runs. -/
def State.Executes (s : State) : Prop :=
  s.inReset = false ∧ s.run = .running ∧ s.arriving.reset = none ∧ choose s.plat s.ps s.arriving.pending = none

/-! ## Numbers -/

/-- The low `w` bits of a word. -/
def lowNat (w : Width) (v : Word) : Nat := v.toNat % 2 ^ w.bits

/-- A number of `w` bits read as a signed one (R11). -/
def signedNat (w : Width) (v : Nat) : Int := if v < 2 ^ (w.bits - 1) then v else (v : Int) - 2 ^ w.bits

/-- `R[w-1:0] <- v mod 2^w`: `new` has these low bits and the high bits of `old` (R31). -/
def LowBits (w : Width) (old new : Word) (v : Nat) : Prop :=
  new.toNat % 2 ^ w.bits = v % 2 ^ w.bits ∧ new.toNat / 2 ^ w.bits = old.toNat / 2 ^ w.bits

/-- `PS.N <- v[w-1]`, `PS.Z <- v mod 2^w = 0` (R38), the other flags as they were. -/
def PS.nz (p : PS) (w : Width) (v : Nat) : PS :=
  { p with n := decide (2 ^ (w.bits - 1) ≤ v % 2 ^ w.bits), z := decide (v % 2 ^ w.bits = 0) }

/-- `Xe` as a number (R150). -/
def State.xNat (s : State) : Nat := if s.ps.x then s.x.toNat % 256 else s.x.toNat

/-- `Ye` as a number (R150). -/
def State.yNat (s : State) : Nat := if s.ps.x then s.y.toNat % 256 else s.y.toNat

/-- The address with the number `n`, modulo 2^24. -/
def addrOfNat (n : Nat) : Addr := BitVec.ofNat 24 n

/-- `MemRead(n, 2)` at the address numbered `n`; which bytes it is made of is said once for memory (R61, R62) and once for
devices (R65). -/
def State.wordAt (s : State) (n : Nat) : Nat := (s.read16 (addrOfNat n)).toNat

/-- `MemRead(n, 3)` at the address numbered `n` (R61, R62). -/
def State.longAt (s : State) (n : Nat) : Nat := (s.read24 (addrOfNat n)).toNat

/-- `MemRead(a, w/8)` (R61). -/
def State.memNat (s : State) (w : Width) (a : Addr) : Nat := (s.readW w a).toNat

/-- An immediate of width `w` as a number (R98). -/
def Imm.nat (w : Width) (i : Imm) : Nat :=
  match i with
  | .byte v => v.toNat
  | .word v => v.toNat % 2 ^ w.bits

/-- `Operand(w)` as a number; the pointer of an indirect mode is read first (R77, R160). -/
def State.operandNat (s : State) (w : Width) (src : Src) : Nat :=
  match src with
  | .imm i => Imm.nat w i
  | .mem md => (s.afterEa md).memNat w (s.ea md)

/-- The operand of an instruction that changes it in place, as a number (R287). -/
def State.dstNat (s : State) (w : Width) (dst : Dst) : Nat :=
  match dst with
  | .acc r => lowNat w (s.acc r)
  | .mem md => (s.afterEa md).memNat w (s.ea md)

/-! ## Bytes -/

/-- Every byte of memory, which device registers are not, reads as before. -/
def SameBytes (s t : State) : Prop := ∀ a : Addr, hasMemory s.plat a = true → t.read8 a = s.read8 a

/-- What a byte reads as after the given stores, the latest first; only RAM keeps a store (R78, D6). -/
def readAfter (s : State) (stores : List (Addr × Byte)) (b : Addr) : Byte :=
  match stores with
  | [] => s.read8 b
  | (a, v) :: earlier => if a = b ∧ regionKind s.plat b = .ram then v else readAfter s earlier b

/-- The stores of an operand of width `w`, the latest first: low byte at `a`, high byte at `a + 1` (R63). -/
def storesOf (w : Width) (a : Addr) (v : Nat) : List (Addr × Byte) :=
  match w with
  | .w8 => [(a, BitVec.ofNat 8 v)]
  | .w16 => [(a + 1#24, BitVec.ofNat 8 (v / 256)), (a, BitVec.ofNat 8 v)]

/-- Memory after a store of the low `w` bits of `v` at `a`: those bytes, and no other byte changed. -/
def Stores (s t : State) (w : Width) (a : Addr) (v : Nat) : Prop :=
  ∀ b : Addr, hasMemory s.plat b = true → t.read8 b = readAfter s (storesOf w a v) b

/-- The bytes of a register in the order in which they are pushed: the high byte first (R71, R211). -/
def pushBytes (w : Width) (v : Word) : List Byte :=
  match w with
  | .w8 => [BitVec.ofNat 8 v.toNat]
  | .w16 => [BitVec.ofNat 8 (v.toNat / 256), BitVec.ofNat 8 v.toNat]

/-- The stores of pushes that begin at `00h:sp` and go down, the latest first (R69, R70). -/
def stackStores (sp : Word) (bytes : List Byte) (earlier : List (Addr × Byte)) : List (Addr × Byte) :=
  match bytes with
  | [] => earlier
  | v :: rest => stackStores (sp - 1#16) rest ((mkAddr 0x00#8 sp, v) :: earlier)

/-- S and memory after the given bytes are pushed, in this order: nothing else in memory changes. -/
def Pushes (s t : State) (bytes : List Byte) : Prop :=
  t.sp = s.sp - BitVec.ofNat 16 bytes.length ∧
    ∀ b : Addr, hasMemory s.plat b = true → t.read8 b = readAfter s (stackStores s.sp bytes []) b

/-- The bytes of values pushed one after the other, in the order in which they are pushed. -/
def itemBytes (items : List (Width × Word)) : List Byte :=
  match items with
  | [] => []
  | (w, v) :: rest => pushBytes w v ++ itemBytes rest

/-- The given values pushed one after the other, each by `Push8` or `Push16`: what these do to a device is said once, in
statement PushAndPull (R70, R71, R233). -/
def State.pushAll (s : State) (items : List (Width × Word)) : State :=
  match items with
  | [] => s
  | (w, v) :: rest => (s.pushW w v).pushAll rest

/-- What an entry pushes: PG, PC and PS (R372). -/
def frameItems (ret : Addr) (ps : PS) : List (Width × Word) :=
  [(.w8, ofByte (bankOf ret)), (.w16, offsetOf ret), (.w16, ps.toWord)]

/-- The five bytes of an entry frame: PG, PCH, PCL, PSH, PSL (R372). -/
def frameBytes (ret : Addr) (ps : PS) : List Byte :=
  bankOf ret :: (pushBytes .w16 (offsetOf ret) ++ pushBytes .w16 ps.toWord)

/-- The state after pulls of the given widths (R72, R73): statement PushAndPull says what one of them does. -/
def State.afterPulls (s : State) (widths : List Width) : State :=
  match widths with
  | [] => s
  | w :: rest => (s.dropW w).afterPulls rest

/-- How many bytes pulls of the given widths take off the stack. -/
def pullCount (widths : List Width) : Nat :=
  match widths with
  | [] => 0
  | w :: rest => w.bits / 8 + pullCount rest

/-- The number that a pull of width `w` gives when pulls of the widths `before` have come before it (R72, R73). -/
def State.pulledNat (s : State) (before : List Width) (w : Width) : Nat := ((s.afterPulls before).topW w).toNat

/-- The `count` bytes from `00h:sp` down are RAM. -/
def stackIsRam (p : Platform) (sp : Word) (count : Nat) : Prop :=
  ∀ k : Nat, k < count → regionKind p (mkAddr 0x00#8 (sp - BitVec.ofNat 16 k)) = .ram

/-- The platform has nothing but RAM, and ROM that ignores writes. -/
def MemoryOnly (p : Platform) : Prop := ∀ a : Addr, regionKind p a = .ram ∨ regionKind p a = .rom false

/-! ## Codes -/

/-- The columns of the eight accumulator instructions: the low five bits of their operation codes (R107). -/
def accColumns : List Nat := [0x01, 0x03, 0x05, 0x07, 0x09, 0x0D, 0x0F, 0x11, 0x12, 0x13, 0x15, 0x17, 0x19, 0x1D, 0x1F]

/-- The codes of table 2 besides the accumulator instructions, on every series (R105). -/
def table2Singles : List Nat :=
  [0x0A, 0x1A, 0x2A, 0x3A, 0x4A, 0x6A, 0x1B, 0x3B, 0x48, 0x5B, 0x68, 0x7B, 0x8A, 0x98, 0xA8, 0xAA]

/-- The codes of table 2 on the 7750 Series only (R105). -/
def table2Of7750 : List Nat := [0x08, 0x8B, 0xAB]

/-- The single codes of table 3 on every series (R106). -/
def table3Singles : List Nat := [0x49, 0xC2, 0x28]

/-- The single codes of table 3 on the 7750 Series only (R106). -/
def table3Of7750 : List Nat := [0x08, 0x06, 0x16, 0x0E, 0x1E, 0x8B, 0xAB]

/-- Whether a byte and the byte after it are the code of an instruction on the given series (R104 to R106). -/
def definedCode (series7750 : Bool) (b0 b1 : Nat) : Bool :=
  if b0 = 0x42 then
    (accColumns.contains (b1 % 0x20) && b1 != 0x89) || table2Singles.contains b1 ||
      (series7750 && table2Of7750.contains b1)
  else if b0 = 0x89 then
    (accColumns.contains (b1 % 0x20) && decide (b1 / 0x20 ≤ 1)) || table3Singles.contains b1 ||
      (series7750 && (table3Of7750.contains b1 ||
        (accColumns.contains (b1 % 0x20) && decide (b1 / 0x20 = 4 ∨ b1 / 0x20 = 5))))
  else b0 != 0x02

/-- The bytes that name a code: two after a prefix byte, else one (R90). -/
def codeBytes (b0 b1 : Byte) : List Byte := if b0 = 0x42#8 ∨ b0 = 0x89#8 then [b0, b1] else [b0]

/-! ## Frames -/

/-- Only the accumulator `r` and PS of `s` differ in `t`. -/
def OnlyAcc (r : Acc) (s t : State) : Prop :=
  match r with
  | .a => t = { s with a := t.a, ps := t.ps }
  | .b => t = { s with b := t.b, ps := t.ps }

/-- An operand changed in place receives `v mod 2^w`; nothing else but PS differs. A device sees one read and then one write
(R76, R77, R287). -/
def WritesDst (s t : State) (w : Width) (dst : Dst) (v : Nat) : Prop :=
  match dst with
  | .acc r => LowBits w (s.acc r) (t.acc r) v ∧ OnlyAcc r s t ∧ SameBytes s t
  | .mem md => Stores s t w (s.ea md) v ∧
      t = { s with mem := t.mem, bus := (s.updateMem w md (BitVec.ofNat 16 v)).bus, ps := t.ps }

/-- Control is at `na + offset`, modulo 2^24; nothing else differs (R146). -/
def BranchesBy (s t : State) (offset : Int) : Prop :=
  t = { s with pg := t.pg, pc := t.pc, jumped := true } ∧
    (t.next.toNat : Int) = ((s.next.toNat : Int) + offset) % 2 ^ 24

end Sys2Proof.Machine
end

