-- ==== Sys2Proof/Certificates/Slice0/Obligations.lean ====
section
/-! DEFINITION. The statements for the provers. In those about `exec`, PG:PC of `s` already holds `na`, the address of the
next instruction (R92, R160). `t = { s with ... }` says that every field not named there, memory included, is as before.
`bus := ...` says which accesses happened, in which order (R77); `afterOperand`, `afterMem`, `afterEa`, `afterTarget`,
`after16`, `afterPulls`, `push16`, `pushAll`, `storeMem` and `updateMem` change nothing but memory, S and the bus, and the bus only
where an address has no memory (statements MemoryAccess, BusAccess and PushAndPull). -/

section Slice0Obligations

open Sys2Proof Sys2Proof.Machine

/-! ## Reset -/

/-- 10_state.md section 3: the values that the spec gives for reset, and PC read from the reset vector afterwards. What the
model chose for A, B, X, Y, S, C, Z, V, N (log 4, 5), memory (log 6) and the devices (log 10) is not stated. -/
def Obligations.ResetValues : Prop :=
  State.reset.pc = 0xFFFE#16 ∧ State.reset.pg = 0x00#8 ∧ State.reset.dt = 0x00#8 ∧ State.reset.dpr = 0x0000#16 ∧
  State.reset.ps.i = true ∧ State.reset.ps.d = false ∧ State.reset.ps.x = false ∧ State.reset.ps.m = false ∧
  State.reset.ps.ipl = 0#3 ∧ State.reset.run = .running ∧ State.reset.inReset = true ∧
  (∃ t, step State.reset = .next t) ∧
  ∀ s : State, s.inReset = true →
    ∃ t, step s = ifAllowed (.next t) ∧
      t = { s with pc := t.pc, inReset := false, stale := [], bus := (s.allowed.after16 0x00FFFE#24).bus } ∧
      t.pc.toNat = s.allowed.wordAt 0x00FFFE

/-- R410: a reset that arrives in any run state. `args` is what the spec calls any value: of its RAM bytes, stored one by one
(log 12), the last at an address of RAM is what that address reads as; every other byte of memory is as before. -/
def Obligations.ResetArrives : Prop :=
  ∀ (s : State) (args : ResetArgs) (pending : List Request) (rest : List Input), s.MemOk →
    s.inReset = false → s.inputs = { reset := some args, pending := pending } :: rest →
    ∃ (t : State) (bus : Bus), bus = { devices := args.devices, draws := s.bus.draws + 1, denied := none, written := [] } ∧
      step s = ifAllowed (.next t) ∧
      t = { s with
        a := args.a, b := args.b, x := args.x, y := args.y, sp := args.sp, pg := 0x00#8, dt := 0x00#8
        dpr := 0x0000#16, pc := t.pc, mem := t.mem, run := .running, inputs := rest, jumped := false, stale := []
        bus := bus.afterRead16 s.plat 0x00FFFE#24
        ps := { c := args.c, z := args.z, i := true, d := false, x := false, m := false, v := args.v, n := args.n,
                ipl := 0#3 } } ∧
      t.pc.toNat = { t with bus := bus }.wordAt 0x00FFFE ∧
      (∀ (earlier later : List Host.Cell) (n : Nat) (v : Byte), args.ram = earlier ++ (n, v) :: later →
        (∀ c ∈ later, addrOfNat c.1 ≠ addrOfNat n) → regionKind s.plat (addrOfNat n) = .ram →
        t.read8 (addrOfNat n) = v) ∧
      ∀ a : Addr, hasMemory s.plat a = true →
        (regionKind s.plat a ≠ .ram ∨ ∀ c ∈ args.ram, addrOfNat c.1 ≠ a) → t.read8 a = s.read8 a

/-! ## Encoding and decoding -/

/-- R90, R93: for every well-formed instruction, decoding its encoding gives it back and leaves the bytes after it, and the
encoding is 1 to 6 bytes long. -/
def Obligations.DecodeOfEncode : Prop :=
  ∀ (c : DecodeCtx) (i : Instr) (rest : List Byte), i.wellFormed c = true →
    decode c (encode i ++ rest) = .ok (i, rest) ∧ 1 ≤ (encode i).length ∧ (encode i).length ≤ 6

/-- Machine codes printed in the spec, one for each family, decode to the instructions they stand for. -/
def Obligations.DecodedWords : Prop :=
  ∀ m x : Bool,
    decode ⟨true, false, x⟩ [0x69#8, 0xB7#8, 0xA5#8] = .ok (.adc .a (.imm (.word 0xA5B7#16)), []) ∧
    decode ⟨true, m, x⟩ [0x42#8, 0x8D#8, 0x00#8, 0x20#8] = .ok (.sta .b (.abs 0x2000#16), []) ∧
    decode ⟨true, m, x⟩ [0x42#8, 0xAA#8] = .ok (.tbx, []) ∧
    decode ⟨true, m, x⟩ [0xF4#8, 0x34#8, 0x12#8] = .ok (.pea 0x1234#16, []) ∧
    decode ⟨true, m, x⟩ [0x54#8, 0xE2#8, 0xE5#8] = .ok (.mvn 0xE2#8 0xE5#8, []) ∧
    decode ⟨true, m, x⟩ [0x89#8, 0x28#8] = .ok (.xab, []) ∧
    decode ⟨true, m, x⟩ [0x42#8, 0x08#8] = .ok (.asr (.acc .b), []) ∧
    decode ⟨true, true, x⟩ [0x14#8, 0x10#8, 0x81#8] = .ok (.clb (.dir 0x10#8) (.byte 0x81#8), []) ∧
    decode ⟨true, false, x⟩ [0x24#8, 0x04#8, 0xA5#8, 0x5A#8, 0xF6#8] =
      .ok (.bbs (.dir 0x04#8) (.word 0x5AA5#16) 0xF6#8, []) ∧
    decode ⟨true, m, x⟩ [0x5C#8, 0x56#8, 0x34#8, 0x12#8] = .ok (.jmp (.absL 0x123456#24), []) ∧
    decode ⟨true, m, x⟩ [0x00#8, 0xEA#8] = .ok (.brk 0xEA#8, [])

/-- R109: a code that the tables do not list for the series is refused, with its address and bytes, and has no effect; where
its bytes may have been prefetched before they were changed, that is the refusal (R421). -/
def Obligations.UndefinedCodesRefused : Prop :=
  ∀ (s : State) (b0 b1 : Byte) (rest : List Byte),
    s.Executes → s.beginStep.window = b0 :: b1 :: rest →
    ((∃ e, s.beginStep.fetch = .error e) ↔ definedCode s.plat.series7750 b0.toNat b1.toNat = false) ∧
    (definedCode s.plat.series7750 b0.toNat b1.toNat = false →
      step s = if s.runsIntoStore (codeBytes b0 b1).length then .refused .storeIntoPrefetch
        else .refused (.illegalOpcode s.next (codeBytes b0 b1)))

/-! ## The step -/

/-- R92: a step that accepts nothing runs the instruction that the bytes at PG:PC decode to, with those bytes read and PG:PC
advanced past them. What is added: the refusal of R421 where one of those bytes was changed after it may have been prefetched,
the note of the bytes that the instruction changed, and the refusal of an access that the platform refuses (log 28). -/
def Obligations.StepRunsDecodedInstruction : Prop :=
  ∀ (s : State) (i : Instr) (rest : List Byte),
    s.Executes → decode s.ctx s.beginStep.window = .ok (i, rest) →
    ∃ (len : Nat) (u : State), len = 6 - rest.length ∧
      u = { s with
        pg := u.pg, pc := u.pc, inputs := s.inputs.tail, jumped := false
        bus := (s.beginStep.afterBytes s.next len).bus } ∧
      u.next.toNat = (s.next.toNat + len) % 2 ^ 24 ∧ u.bus.written = [] ∧
      (s.runsIntoStore len = true → step s = .refused .storeIntoPrefetch) ∧
      (s.runsIntoStore len = false →
        (∀ t, exec i u = .next t → step s = ifAllowed (.next (u.settle t))) ∧
        ∀ r, exec i u = .refused r → step s = .refused r)

/-- R82, R421: bytes at PG:PC run into a store when one of them is noted as changed. An instruction adds to the note the bytes
it changed in `[na, na + queueReach)`, modulo 2^24; a transfer of control forgets the note. RAM is changed where it reads
differently; a byte that a device has counts as changed when the step has written to its address, whatever the device made of
it, and no read and no write elsewhere changes it (log 15; statement BusAccess says which accesses are noted as written).
That the step then refuses is in statements StepRunsDecodedInstruction and UndefinedCodesRefused. -/
def Obligations.PrefetchedBytesChanged : Prop :=
  ∀ (u t : State) (len : Nat) (a : Addr),
    (u.runsIntoStore len = true ↔ ∃ k, k < len ∧ u.next + BitVec.ofNat 24 k ∈ u.stale) ∧
    u.settle t = { t with stale := (u.settle t).stale } ∧
    (a ∈ (u.settle t).stale ↔ t.jumped = false ∧ (a ∈ u.stale ∨
      byteChanged u t a = true ∧ ∃ k, k < u.plat.queueReach ∧ a = u.next + BitVec.ofNat 24 k)) ∧
    (regionKind u.plat a = .ram → t.plat = u.plat → (byteChanged u t a = true ↔ u.read8 a ≠ t.read8 a)) ∧
    (∀ (id : Nat) (words : Bool), regionKind u.plat a = .device id words →
      (byteChanged u t a = true ↔ a ∈ t.bus.written)) ∧
    (∀ refuses : Bool, regionKind u.plat a = .rom refuses ∨ regionKind u.plat a = .unmapped refuses →
      byteChanged u t a = false)

/-- R161, R79, R370: no instruction but MVN and MVP is ever refused, in any state and with any operands. -/
def Obligations.OnlyBlockTransfersRefuse : Prop :=
  ∀ (i : Instr) (s : State) (r : Refusal), exec i s = .refused r →
    ∃ n1 n2 : Byte, (i = .mvn n1 n2 ∨ i = .mvp n1 n2) ∧ (r = .blockIndexHighByte ∨ r = .blockCrossesBank)

/-- The invariant: a step keeps memory in its canonical form, never changes the platform, and ends outside the reset phase
with no access refused. -/
def Obligations.StepKeepsInvariant : Prop :=
  ∀ s t : State, s.MemOk → step s = .next t →
    t.MemOk ∧ t.plat = s.plat ∧ t.inReset = false ∧ t.bus.denied = none

/-- Memory is canonical at reset. -/
def Obligations.ResetMemoryCanonical : Prop := State.reset.MemOk

/-! ## Memory -/

/-- R62, R63: reads of 1, 2 and 3 bytes of memory, low byte first, and writes of 1 and 2 bytes, the addresses modulo 2^24.
Memory is RAM, and ROM, which gives its byte back. A write changes those bytes, where they are RAM, and no other: that ROM
and addresses without memory ignore a write, where the platform does not refuse it, is the model's choice (D6, log 10,
DESIGN CHOICE). -/
def Obligations.MemoryAccess : Prop :=
  ∀ (s : State) (w : Width) (a : Addr) (v : Word), s.MemOk →
    (hasMemory s.plat a = true → s.after8 a = s ∧
      (hasMemory s.plat (addrOfNat (a.toNat + 1)) = true →
        (s.read16 a).toNat = (s.read8 a).toNat + 256 * (s.read8 (addrOfNat (a.toNat + 1))).toNat ∧ s.after16 a = s ∧
        (hasMemory s.plat (addrOfNat (a.toNat + 2)) = true →
          (s.read24 a).toNat = (s.read8 a).toNat + 256 * (s.read8 (addrOfNat (a.toNat + 1))).toNat +
            65536 * (s.read8 (addrOfNat (a.toNat + 2))).toNat ∧ s.after24 a = s))) ∧
    Stores s (s.writeW w a v) w a v.toNat ∧ (s.writeW w a v).MemOk ∧
    s.writeW w a v = { s with mem := (s.writeW w a v).mem, bus := (s.writeW w a v).bus } ∧
    (regionKind s.plat a = .ram → regionKind s.plat (addrOfNat (a.toNat + 1)) = .ram → (s.writeW w a v).bus = s.bus)

/-- R65, R77, D6: an access of a byte that a device has is one call of its read or write function, and so is an access of an
aligned word of a device that takes words; every other word is two accesses of a byte, the low one first. The addresses that
a write gives to a device are noted (log 15). Where nothing is
placed a read gives a value that nothing constrains, a new one each time (log 8, log 10), and a write does nothing. ROM and
such addresses refuse where the platform says so, and the first refused address of a step is the refusal (log 28). -/
def Obligations.BusAccess : Prop :=
  ∀ (s : State) (a : Addr) (b : Byte) (v : Word) (id : Nat) (words refuses : Bool),
    (regionKind s.plat a = .device id words →
      s.read8 a = loByte (Config.deviceRead id s.bus.devices s.bus.draws a .w8).2 ∧
      s.after8 a =
        { s with bus := { s.bus with devices := (Config.deviceRead id s.bus.devices s.bus.draws a .w8).1 } } ∧
      s.write8 a b =
        { s with bus := { s.bus with
          devices := Config.deviceWrite id s.bus.devices s.bus.draws a .w8 (ofByte b), written := a :: s.bus.written } }) ∧
    (a.toNat % 2 = 0 → regionKind s.plat a = .device id true → regionKind s.plat (a + 1#24) = .device id true →
      s.read16 a = (Config.deviceRead id s.bus.devices s.bus.draws a .w16).2 ∧
      s.after16 a =
        { s with bus := { s.bus with devices := (Config.deviceRead id s.bus.devices s.bus.draws a .w16).1 } } ∧
      s.write16 a v =
        { s with bus := { s.bus with
          devices := Config.deviceWrite id s.bus.devices s.bus.draws a .w16 v
          written := (a + 1#24) :: a :: s.bus.written } }) ∧
    (a.toNat % 2 = 1 ∨ (∀ k, regionKind s.plat a ≠ .device k true) ∨ regionKind s.plat (a + 1#24) ≠ regionKind s.plat a →
      (s.read16 a).toNat = (s.read8 a).toNat + 256 * ((s.after8 a).read8 (a + 1#24)).toNat ∧
      s.after16 a = (s.after8 a).after8 (a + 1#24) ∧
      s.write16 a v = (s.write8 a (loByte v)).write8 (a + 1#24) (hiByte v)) ∧
    ((s.read24 a).toNat = (s.read16 a).toNat + 65536 * ((s.after16 a).read8 (a + 2#24)).toNat ∧
      s.after24 a = (s.after16 a).after8 (a + 2#24)) ∧
    (regionKind s.plat a = .unmapped refuses →
      s.read8 a = Config.freeByte s.bus.draws ∧
      s.after8 a = { s with bus := {
        devices := s.bus.devices, draws := s.bus.draws + 1, written := s.bus.written
        denied := if refuses = true ∧ s.bus.denied = none then some a else s.bus.denied } }) ∧
    (regionKind s.plat a = .unmapped refuses ∨ regionKind s.plat a = .rom refuses →
      s.write8 a b = { s with bus := { s.bus with
        denied := if refuses = true ∧ s.bus.denied = none then some a else s.bus.denied } }) ∧
    (MemoryOnly s.plat →
      s.after8 a = s ∧ s.after16 a = s ∧ (s.write8 a b).bus = s.bus ∧ (s.write16 a v).bus = s.bus) ∧
    (s.bus.denied = none → ifAllowed (.next s) = .next s) ∧
    (∀ first, s.bus.denied = some first → ifAllowed (.next s) = .refused (.accessRefused first))

/-- R69 to R73, R233: `Push8`, `Push16`, `Pull8` and `Pull16`, with S modulo 2^16 in bank 0. Where a device has both bytes of
a word and takes words, and the lower address is even, a push or a pull of 16 bits is one access there; otherwise it is two, a
push with the high byte first and a pull with the low one (log 29). A pull after a push of the same width gives the value
pushed and leaves S as it was, where the stack is in RAM. -/
def Obligations.PushAndPull : Prop :=
  ∀ (s : State) (b : Byte) (v : Word) (id : Nat), s.MemOk →
    (Pushes s (s.push8 b) [b] ∧ s.push8 b = { s.write8 (mkAddr 0x00#8 s.sp) b with sp := s.sp - 1#16 }) ∧
    (s.top8 = s.read8 (mkAddr 0x00#8 (s.sp + 1#16)) ∧
      s.drop8 = { s.after8 (mkAddr 0x00#8 (s.sp + 1#16)) with sp := s.sp + 1#16 }) ∧
    (Pushes s (s.push16 v) (pushBytes .w16 v) ∧
      s.push16 v = { s with sp := s.sp - 2#16, mem := (s.push16 v).mem, bus := (s.push16 v).bus }) ∧
    s.drop16 = { s with sp := s.sp + 2#16, bus := s.drop16.bus } ∧
    (s.sp.toNat % 2 = 1 →
      (regionKind s.plat (mkAddr 0x00#8 (s.sp - 1#16)) = .device id true →
        regionKind s.plat (mkAddr 0x00#8 s.sp) = .device id true →
        s.push16 v = { s.write16 (mkAddr 0x00#8 (s.sp - 1#16)) v with sp := s.sp - 2#16 }) ∧
      (regionKind s.plat (mkAddr 0x00#8 (s.sp + 1#16)) = .device id true →
        regionKind s.plat (mkAddr 0x00#8 (s.sp + 2#16)) = .device id true →
        s.top16 = s.read16 (mkAddr 0x00#8 (s.sp + 1#16)) ∧
        s.drop16 = { s.after16 (mkAddr 0x00#8 (s.sp + 1#16)) with sp := s.sp + 2#16 })) ∧
    (s.sp.toNat % 2 = 0 ∨ (∀ k, regionKind s.plat (mkAddr 0x00#8 (s.sp - 1#16)) ≠ .device k true) ∨
        regionKind s.plat (mkAddr 0x00#8 s.sp) ≠ regionKind s.plat (mkAddr 0x00#8 (s.sp - 1#16)) →
      s.push16 v = (s.push8 (BitVec.ofNat 8 (v.toNat / 256))).push8 (BitVec.ofNat 8 v.toNat)) ∧
    (s.sp.toNat % 2 = 0 ∨ (∀ k, regionKind s.plat (mkAddr 0x00#8 (s.sp + 1#16)) ≠ .device k true) ∨
        regionKind s.plat (mkAddr 0x00#8 (s.sp + 2#16)) ≠ regionKind s.plat (mkAddr 0x00#8 (s.sp + 1#16)) →
      s.top16.toNat = s.top8.toNat + 256 * s.drop8.top8.toNat ∧ s.drop16 = s.drop8.drop8) ∧
    ∀ w : Width, stackIsRam s.plat s.sp (w.bits / 8) →
      (s.pushW w v).pulledNat [] w = lowNat w v ∧ (s.pushW w v).dropW w = { s with mem := (s.pushW w v).mem }

/-! ## Addressing modes -/

/-- R125, R127, R128, R136, R137, R139, R143, with the data addresses of absolute and absolute long: the direct and stack
relative modes run into bank 1 or 2 without a wrap; elsewhere a carry of the index goes into the bank, modulo 2^24. -/
def Obligations.PlainAddresses : Prop :=
  ∀ (s : State) (n : Byte) (mmll : Word) (hhmmll : Addr),
    (s.ea (.dir n)).toNat = s.dpr.toNat + n.toNat ∧
    (s.ea (.dirX n)).toNat = s.dpr.toNat + n.toNat + s.xNat ∧
    (s.ea (.dirY n)).toNat = s.dpr.toNat + n.toNat + s.yNat ∧
    (s.ea (.sr n)).toNat = s.sp.toNat + n.toNat ∧
    (s.ea (.abs mmll)).toNat = s.dt.toNat * 65536 + mmll.toNat ∧
    (s.ea (.absX mmll)).toNat = (s.dt.toNat * 65536 + mmll.toNat + s.xNat) % 2 ^ 24 ∧
    (s.ea (.absY mmll)).toNat = (s.dt.toNat * 65536 + mmll.toNat + s.yNat) % 2 ^ 24 ∧
    s.ea (.absL hhmmll) = hhmmll ∧
    (s.ea (.absLX hhmmll)).toNat = (hhmmll.toNat + s.xNat) % 2 ^ 24

/-- R129 to R133, R144: the indirect modes, with the pointer in bank 0, 1 or 2 and the data in bank DT or in the pointer's. -/
def Obligations.IndirectAddresses : Prop :=
  ∀ (s : State) (n : Byte),
    (s.ea (.dirInd n)).toNat = s.dt.toNat * 65536 + s.wordAt (s.dpr.toNat + n.toNat) ∧
    (s.ea (.dirXInd n)).toNat = s.dt.toNat * 65536 + s.wordAt (s.dpr.toNat + n.toNat + s.xNat) ∧
    (s.ea (.dirIndY n)).toNat = (s.dt.toNat * 65536 + s.wordAt (s.dpr.toNat + n.toNat) + s.yNat) % 2 ^ 24 ∧
    (s.ea (.dirIndL n)).toNat = s.longAt (s.dpr.toNat + n.toNat) ∧
    (s.ea (.dirIndLY n)).toNat = (s.longAt (s.dpr.toNat + n.toNat) + s.yNat) % 2 ^ 24 ∧
    (s.ea (.srIndY n)).toNat = (s.dt.toNat * 65536 + s.wordAt (s.sp.toNat + n.toNat) + s.yNat) % 2 ^ 24

/-! ## Load and store -/

/-- LDA of A or B in every form: the low w bits of the accumulator, N and Z; nothing else. -/
def Obligations.LoadAccumulator : Prop :=
  ∀ (r : Acc) (src : Src) (s : State),
    ∃ t, exec (.lda r src) s = .next t ∧ LowBits s.wm (s.acc r) (t.acc r) (s.operandNat s.wm src) ∧
      t.ps = s.ps.nz s.wm (s.operandNat s.wm src) ∧ OnlyAcc r (s.afterOperand s.wm src) t ∧ SameBytes s t

/-- LDX and LDY in every form, at the width of flag x, and LDT, which changes no flag whatever m and x are. -/
def Obligations.LoadIndexAndBank : Prop :=
  ∀ (src : Src) (imm : Byte) (s : State),
    (∃ t, exec (.ldx src) s = .next t ∧ LowBits s.wx s.x t.x (s.operandNat s.wx src) ∧
      t.ps = s.ps.nz s.wx (s.operandNat s.wx src) ∧
      t = { s with x := t.x, ps := t.ps, bus := (s.afterOperand s.wx src).bus } ∧ SameBytes s t) ∧
    (∃ t, exec (.ldy src) s = .next t ∧ LowBits s.wx s.y t.y (s.operandNat s.wx src) ∧
      t.ps = s.ps.nz s.wx (s.operandNat s.wx src) ∧
      t = { s with y := t.y, ps := t.ps, bus := (s.afterOperand s.wx src).bus } ∧ SameBytes s t) ∧
    (∃ t, exec (.ldt imm) s = .next t ∧ t = { s with dt := imm } ∧ SameBytes s t)

/-- STA, LDM at the width of flag m and STX, STY at that of flag x: the bytes at the mode's address, and nothing else. -/
def Obligations.StoreInstructions : Prop :=
  ∀ (md : Mode) (s : State), s.MemOk →
    (∀ r : Acc, ∃ t, exec (.sta r md) s = .next t ∧ Stores s t s.wm (s.ea md) (s.acc r).toNat ∧
      t = { s with mem := t.mem, bus := (s.storeMem s.wm md (s.acc r)).bus }) ∧
    (∀ imm : Imm, ∃ t, exec (.ldm md imm) s = .next t ∧ Stores s t s.wm (s.ea md) (Imm.nat s.wm imm) ∧
      t = { s with mem := t.mem, bus := (s.storeMem s.wm md (BitVec.ofNat 16 (Imm.nat s.wm imm))).bus }) ∧
    (∃ t, exec (.stx md) s = .next t ∧ Stores s t s.wx (s.ea md) s.x.toNat ∧
      t = { s with mem := t.mem, bus := (s.storeMem s.wx md s.x).bus }) ∧
    (∃ t, exec (.sty md) s = .next t ∧ Stores s t s.wx (s.ea md) s.y.toNat ∧
      t = { s with mem := t.mem, bus := (s.storeMem s.wx md s.y).bus })

/-! ## Transfers -/

/-- R181, R182, R185, R186, R194: TAD, TBD, TAS, TBS move 16 bits whatever m is; TXS with x = 1 clears the high byte of S.
No flag changes. -/
def Obligations.TransferToDprOrS : Prop :=
  encode .tad = [0x5B#8] ∧ encode .tbd = [0x42#8, 0x5B#8] ∧ encode .tas = [0x1B#8] ∧
  encode .tbs = [0x42#8, 0x1B#8] ∧ encode .txs = [0x9A#8] ∧
  ∀ s : State,
    exec .tad s = .next { s with dpr := s.a } ∧ exec .tbd s = .next { s with dpr := s.b } ∧
    exec .tas s = .next { s with sp := s.a } ∧ exec .tbs s = .next { s with sp := s.b } ∧
    ∃ t, exec .txs s = .next t ∧ t = { s with sp := t.sp } ∧ t.sp.toNat = s.xNat

/-- R183, R184, R187, R188, R193, R195, R200: transfers to X or Y at the width of flag x, with N and Z of that width. -/
def Obligations.TransferToIndex : Prop :=
  encode .tax = [0xAA#8] ∧ encode .tbx = [0x42#8, 0xAA#8] ∧ encode .tsx = [0xBA#8] ∧ encode .tyx = [0xBB#8] ∧
  encode .tay = [0xA8#8] ∧ encode .tby = [0x42#8, 0xA8#8] ∧ encode .txy = [0x9B#8] ∧
  ∀ s : State,
    (∀ p ∈ [(Instr.tax, s.a), (.tbx, s.b), (.tsx, s.sp), (.tyx, s.y)],
      ∃ t, exec p.1 s = .next t ∧ LowBits s.wx s.x t.x p.2.toNat ∧ t.ps = s.ps.nz s.wx p.2.toNat ∧
        t = { s with x := t.x, ps := t.ps } ∧ SameBytes s t) ∧
    (∀ p ∈ [(Instr.tay, s.a), (.tby, s.b), (.txy, s.x)],
      ∃ t, exec p.1 s = .next t ∧ LowBits s.wx s.y t.y p.2.toNat ∧ t.ps = s.ps.nz s.wx p.2.toNat ∧
        t = { s with y := t.y, ps := t.ps } ∧ SameBytes s t)

/-- R189 to R192, R196 to R199, R201: transfers to A or B at the width of flag m; from X and Y with m = 0 and x = 1 the high
byte becomes 00h. XAB exchanges the low w bits of A and B, with N and Z from A afterwards. -/
def Obligations.TransferToAccumulator : Prop :=
  encode .tda = [0x7B#8] ∧ encode .tdb = [0x42#8, 0x7B#8] ∧ encode .tsa = [0x3B#8] ∧ encode .tsb = [0x42#8, 0x3B#8] ∧
  encode .txa = [0x8A#8] ∧ encode .txb = [0x42#8, 0x8A#8] ∧ encode .tya = [0x98#8] ∧ encode .tyb = [0x42#8, 0x98#8] ∧
  encode .xab = [0x89#8, 0x28#8] ∧
  ∀ s : State,
    (∀ p ∈ [(Instr.tda, Acc.a, s.dpr.toNat), (.tdb, .b, s.dpr.toNat), (.tsa, .a, s.sp.toNat), (.tsb, .b, s.sp.toNat),
        (.txa, .a, s.xNat), (.txb, .b, s.xNat), (.tya, .a, s.yNat), (.tyb, .b, s.yNat)],
      ∃ t, exec p.1 s = .next t ∧ LowBits s.wm (s.acc p.2.1) (t.acc p.2.1) p.2.2 ∧ t.ps = s.ps.nz s.wm p.2.2 ∧
        OnlyAcc p.2.1 s t ∧ SameBytes s t) ∧
    (∃ t, exec .xab s = .next t ∧ LowBits s.wm s.a t.a s.b.toNat ∧ LowBits s.wm s.b t.b s.a.toNat ∧
      t.ps = s.ps.nz s.wm s.b.toNat ∧ t = { s with a := t.a, b := t.b, ps := t.ps } ∧ SameBytes s t)

/-! ## Stack -/

/-- R217 to R224: the single pushes; only S and the stack bytes change. -/
def Obligations.SinglePushes : Prop :=
  encode .pha = [0x48#8] ∧ encode .phb = [0x42#8, 0x48#8] ∧ encode .phd = [0x0B#8] ∧ encode .phg = [0x4B#8] ∧
  encode .php = [0x08#8] ∧ encode .pht = [0x8B#8] ∧ encode .phx = [0xDA#8] ∧ encode .phy = [0x5A#8] ∧
  ∀ s : State, s.MemOk →
    ∀ p ∈ [(Instr.pha, s.wm, s.a), (.phb, s.wm, s.b), (.phd, .w16, s.dpr), (.phg, .w8, ofByte s.pg),
        (.php, .w16, s.ps.toWord), (.pht, .w8, ofByte s.dt), (.phx, s.wx, s.x), (.phy, s.wx, s.y)],
      ∃ t, exec p.1 s = .next t ∧ Pushes s t (pushBytes p.2.1 p.2.2) ∧
        t = { s with sp := t.sp, mem := t.mem, bus := (s.pushAll [p.2]).bus }

/-- R214, R215, and PER with the decision D4: the pushes of an immediate, of a word of the direct page, and of the 16-bit sum
of PC and an immediate. -/
def Obligations.ComputedPushes : Prop :=
  ∀ (imm : Word) (dd : Byte) (s : State), s.MemOk →
    encode (.pea imm) = [0xF4#8, BitVec.ofNat 8 imm.toNat, BitVec.ofNat 8 (imm.toNat / 256)] ∧
    encode (.pei dd) = [0xD4#8, dd] ∧
    encode (.per imm) = [0x62#8, BitVec.ofNat 8 imm.toNat, BitVec.ofNat 8 (imm.toNat / 256)] ∧
    (∃ t, exec (.pea imm) s = .next t ∧ Pushes s t (pushBytes .w16 imm) ∧
      t = { s with sp := t.sp, mem := t.mem, bus := (s.push16 imm).bus }) ∧
    (∃ t v, v = BitVec.ofNat 16 (s.wordAt (s.dpr.toNat + dd.toNat)) ∧
      exec (.pei dd) s = .next t ∧ Pushes s t (pushBytes .w16 v) ∧
      t = { s with
        sp := t.sp, mem := t.mem, bus := ((s.after16 (addrOfNat (s.dpr.toNat + dd.toNat))).push16 v).bus }) ∧
    (∃ t v, v = BitVec.ofNat 16 (s.pc.toNat + imm.toNat) ∧
      exec (.per imm) s = .next t ∧ Pushes s t (pushBytes .w16 v) ∧
      t = { s with sp := t.sp, mem := t.mem, bus := (s.push16 v).bus })

/-- R225, R226, R230, R231: PLA, PLB, PLX, PLY, with N and Z of the value pulled. -/
def Obligations.PullAccumulatorsAndIndexes : Prop :=
  encode .pla = [0x68#8] ∧ encode .plb = [0x42#8, 0x68#8] ∧ encode .plx = [0xFA#8] ∧ encode .ply = [0x7A#8] ∧
  ∀ s : State,
    (∃ t, exec .pla s = .next t ∧ LowBits s.wm s.a t.a (s.pulledNat [] s.wm) ∧ t.ps = s.ps.nz s.wm (s.pulledNat [] s.wm) ∧
      t = { s with
        a := t.a, ps := t.ps, sp := s.sp + BitVec.ofNat 16 (s.wm.bits / 8)
        bus := (s.afterPulls [s.wm]).bus } ∧ SameBytes s t) ∧
    (∃ t, exec .plb s = .next t ∧ LowBits s.wm s.b t.b (s.pulledNat [] s.wm) ∧ t.ps = s.ps.nz s.wm (s.pulledNat [] s.wm) ∧
      t = { s with
        b := t.b, ps := t.ps, sp := s.sp + BitVec.ofNat 16 (s.wm.bits / 8)
        bus := (s.afterPulls [s.wm]).bus } ∧ SameBytes s t) ∧
    (∃ t, exec .plx s = .next t ∧ LowBits s.wx s.x t.x (s.pulledNat [] s.wx) ∧ t.ps = s.ps.nz s.wx (s.pulledNat [] s.wx) ∧
      t = { s with
        x := t.x, ps := t.ps, sp := s.sp + BitVec.ofNat 16 (s.wx.bits / 8)
        bus := (s.afterPulls [s.wx]).bus } ∧ SameBytes s t) ∧
    (∃ t, exec .ply s = .next t ∧ LowBits s.wx s.y t.y (s.pulledNat [] s.wx) ∧ t.ps = s.ps.nz s.wx (s.pulledNat [] s.wx) ∧
      t = { s with
        y := t.y, ps := t.ps, sp := s.sp + BitVec.ofNat 16 (s.wx.bits / 8)
        bus := (s.afterPulls [s.wx]).bus } ∧ SameBytes s t)

/-- R227, R228, R229: PLD changes no flag, PLP replaces all eleven bits of PS, PLT sets N and Z of 8 bits. -/
def Obligations.PullControlRegisters : Prop :=
  encode .pld = [0x2B#8] ∧ encode .plp = [0x28#8] ∧ encode .plt = [0xAB#8] ∧
  ∀ s : State,
    (∃ t, exec .pld s = .next t ∧ t.dpr.toNat = s.pulledNat [] .w16 ∧
      t = { s with dpr := t.dpr, sp := s.sp + 2#16, bus := (s.afterPulls [.w16]).bus } ∧ SameBytes s t) ∧
    (∃ t, exec .plp s = .next t ∧ t.ps.toWord.toNat = s.pulledNat [] .w16 % 2048 ∧
      t = { s with ps := t.ps, sp := s.sp + 2#16, bus := (s.afterPulls [.w16]).bus } ∧ SameBytes s t) ∧
    (∃ t, exec .plt s = .next t ∧ t.dt.toNat = s.pulledNat [] .w8 ∧ t.ps = s.ps.nz .w8 (s.pulledNat [] .w8) ∧
      t = { s with dt := t.dt, ps := t.ps, sp := s.sp + 1#16, bus := (s.afterPulls [.w8]).bus } ∧ SameBytes s t)

/-- R212: PSH pushes the registers of the mask in the order A, B, X, Y, DPR, DT, PG, PS. That bits 15 to 11 of the PS word are
0 is the decision D16. -/
def Obligations.PushRegisterSet : Prop :=
  ∀ (nn : Byte) (s : State), s.MemOk →
    encode (.psh nn) = [0xEB#8, nn] ∧
    ∃ t items, items =
        (if nn.getLsbD 0 then [(s.wm, s.a)] else []) ++ (if nn.getLsbD 1 then [(s.wm, s.b)] else []) ++
        (if nn.getLsbD 2 then [(s.wx, s.x)] else []) ++ (if nn.getLsbD 3 then [(s.wx, s.y)] else []) ++
        (if nn.getLsbD 4 then [(.w16, s.dpr)] else []) ++ (if nn.getLsbD 5 then [(.w8, ofByte s.dt)] else []) ++
        (if nn.getLsbD 6 then [(.w8, ofByte s.pg)] else []) ++ (if nn.getLsbD 7 then [(.w16, s.ps.toWord)] else []) ∧
      exec (.psh nn) s = .next t ∧ t = { s with sp := t.sp, mem := t.mem, bus := (s.pushAll items).bus } ∧
      Pushes s t (itemBytes items)

/-- R213: PUL pulls PS, DT, DPR, Y, X, B, A in this order, at the widths of m and x after the PS step; bit 6 pulls nothing.
That bits 15 to 11 of the PS word are ignored is the decision D16. -/
def Obligations.PullRegisterSet : Prop :=
  ∀ (nn : Byte) (s : State),
    encode (.pul nn) = [0xFB#8, nn] ∧
    ∃ t, exec (.pul nn) s = .next t ∧
      t = { s with
        a := t.a, b := t.b, x := t.x, y := t.y, dpr := t.dpr, dt := t.dt, ps := t.ps, sp := t.sp, bus := t.bus } ∧
      SameBytes s t ∧
      ∃ wPs wDt wDpr wY wX wB wA : List Width,
        wPs = (if nn.getLsbD 7 then [.w16] else []) ∧ wDt = wPs ++ (if nn.getLsbD 5 then [.w8] else []) ∧
        wDpr = wDt ++ (if nn.getLsbD 4 then [.w16] else []) ∧ wY = wDpr ++ (if nn.getLsbD 3 then [t.wx] else []) ∧
        wX = wY ++ (if nn.getLsbD 2 then [t.wx] else []) ∧ wB = wX ++ (if nn.getLsbD 1 then [t.wm] else []) ∧
        wA = wB ++ (if nn.getLsbD 0 then [t.wm] else []) ∧ t.sp = s.sp + BitVec.ofNat 16 (pullCount wA) ∧
        t.bus = (s.afterPulls wA).bus ∧
        (if nn.getLsbD 7 then t.ps.toWord.toNat = s.pulledNat [] .w16 % 2048 else t.ps = s.ps) ∧
        (if nn.getLsbD 5 then t.dt.toNat = s.pulledNat wPs .w8 else t.dt = s.dt) ∧
        (if nn.getLsbD 4 then t.dpr.toNat = s.pulledNat wDt .w16 else t.dpr = s.dpr) ∧
        (if nn.getLsbD 3 then LowBits t.wx s.y t.y (s.pulledNat wDpr t.wx) else t.y = s.y) ∧
        (if nn.getLsbD 2 then LowBits t.wx s.x t.x (s.pulledNat wY t.wx) else t.x = s.x) ∧
        (if nn.getLsbD 1 then LowBits t.wm s.b t.b (s.pulledNat wX t.wm) else t.b = s.b) ∧
        (if nn.getLsbD 0 then LowBits t.wm s.a t.a (s.pulledNat wB t.wm) else t.a = s.a)

/-- 43_stack.md section 2: a PUL undoes the PSH of the same mask when bit 6 of it is 0 and the stack is in RAM. -/
def Obligations.PullUndoesPush : Prop :=
  ∀ (nn : Byte) (s : State), s.MemOk → nn.getLsbD 6 = false → stackIsRam s.plat s.sp 13 →
    ∃ t u, exec (.psh nn) s = .next t ∧ exec (.pul nn) t = .next u ∧ u = { s with mem := t.mem }

/-! ## Block transfer -/

/-- R245, R247: when MVN and MVP are refused, and that nothing else refuses them. -/
def Obligations.BlockTransferRefusals : Prop :=
  ∀ (n1 n2 : Byte) (s : State),
    (exec (.mvn n1 n2) s = .refused .blockIndexHighByte ↔ s.ps.x = true ∧ (256 ≤ s.x.toNat ∨ 256 ≤ s.y.toNat)) ∧
    (exec (.mvp n1 n2) s = .refused .blockIndexHighByte ↔ s.ps.x = true ∧ (256 ≤ s.x.toNat ∨ 256 ≤ s.y.toNat)) ∧
    (s.x.toNat = s.xNat → s.y.toNat = s.yNat →
      (exec (.mvn n1 n2) s = .refused .blockCrossesBank ↔
        2 ^ s.wx.bits < s.xNat + lowNat s.wm s.a ∨ 2 ^ s.wx.bits < s.yNat + lowNat s.wm s.a) ∧
      (exec (.mvp n1 n2) s = .refused .blockCrossesBank ↔
        s.xNat + 1 < lowNat s.wm s.a ∨ s.yNat + 1 < lowNat s.wm s.a))

/-- R241, R243, R244, R246: MVN where no request can end it early. A becomes all ones, X and Y move up by the count, DT is
the destination bank; only the destination bytes change. Each of them, if RAM, is the source byte where that is memory; where
the destination lies above the source and close to it, the source byte is the one that an earlier step of a word has left
there: the byte at the same place of the destination block, `d` lower, if its step came before. -/
def Obligations.MoveBlockUp : Prop :=
  ∀ (n1 n2 : Byte) (s : State), s.MemOk →
    s.plat.blockMoveInterruptible = false ∨ s.inputs = [] →
    s.x.toNat = s.xNat → s.y.toNat = s.yNat →
    s.xNat + lowNat s.wm s.a ≤ 2 ^ s.wx.bits → s.yNat + lowNat s.wm s.a ≤ 2 ^ s.wx.bits →
    ∃ t, exec (.mvn n1 n2) s = .next t ∧
      t = { s with a := t.a, x := t.x, y := t.y, dt := n1, mem := t.mem, bus := t.bus } ∧
      (MemoryOnly s.plat → t.bus = s.bus) ∧
      LowBits s.wm s.a t.a 65535 ∧ LowBits s.wx s.x t.x (s.xNat + lowNat s.wm s.a) ∧
      LowBits s.wx s.y t.y (s.yNat + lowNat s.wm s.a) ∧
      (∀ b : Addr, hasMemory s.plat b = true →
        (∀ k, k < lowNat s.wm s.a → b ≠ addrOfNat (n1.toNat * 65536 + s.yNat + k)) → t.read8 b = s.read8 b) ∧
      ∀ k, k < lowNat s.wm s.a → regionKind s.plat (addrOfNat (n1.toNat * 65536 + s.yNat + k)) = .ram →
        hasMemory s.plat (addrOfNat (n2.toNat * 65536 + s.xNat + k)) = true →
        (n1 ≠ n2 ∨ s.yNat ≤ s.xNat ∨ s.xNat + lowNat s.wm s.a ≤ s.yNat →
          t.read8 (addrOfNat (n1.toNat * 65536 + s.yNat + k)) = s.read8 (addrOfNat (n2.toNat * 65536 + s.xNat + k))) ∧
        ∀ d, n1 = n2 → s.yNat = s.xNat + d → 0 < d → d < lowNat s.wm s.a →
          t.read8 (addrOfNat (n1.toNat * 65536 + s.yNat + k)) =
            if d ≤ k ∧ (k - d) / 2 < k / 2 then t.read8 (addrOfNat (n1.toNat * 65536 + s.yNat + (k - d)))
            else s.read8 (addrOfNat (n2.toNat * 65536 + s.xNat + k))

/-- R242, R243, R244, R246: MVP likewise, from the highest address down; here the blocks that a step of a word reads from
after an earlier one has written there have the destination below the source. -/
def Obligations.MoveBlockDown : Prop :=
  ∀ (n1 n2 : Byte) (s : State), s.MemOk →
    s.plat.blockMoveInterruptible = false ∨ s.inputs = [] →
    s.x.toNat = s.xNat → s.y.toNat = s.yNat →
    lowNat s.wm s.a ≤ s.xNat + 1 → lowNat s.wm s.a ≤ s.yNat + 1 →
    ∃ t, exec (.mvp n1 n2) s = .next t ∧
      t = { s with a := t.a, x := t.x, y := t.y, dt := n1, mem := t.mem, bus := t.bus } ∧
      (MemoryOnly s.plat → t.bus = s.bus) ∧
      LowBits s.wm s.a t.a 65535 ∧ LowBits s.wx s.x t.x (s.xNat + 65536 - lowNat s.wm s.a) ∧
      LowBits s.wx s.y t.y (s.yNat + 65536 - lowNat s.wm s.a) ∧
      (∀ b : Addr, hasMemory s.plat b = true →
        (∀ k, k < lowNat s.wm s.a → b ≠ addrOfNat (n1.toNat * 65536 + s.yNat - k)) → t.read8 b = s.read8 b) ∧
      ∀ k, k < lowNat s.wm s.a → regionKind s.plat (addrOfNat (n1.toNat * 65536 + s.yNat - k)) = .ram →
        hasMemory s.plat (addrOfNat (n2.toNat * 65536 + s.xNat - k)) = true →
        (n1 ≠ n2 ∨ s.xNat ≤ s.yNat ∨ s.yNat + lowNat s.wm s.a ≤ s.xNat →
          t.read8 (addrOfNat (n1.toNat * 65536 + s.yNat - k)) = s.read8 (addrOfNat (n2.toNat * 65536 + s.xNat - k))) ∧
        ∀ d, n1 = n2 → s.xNat = s.yNat + d → 0 < d → d < lowNat s.wm s.a →
          t.read8 (addrOfNat (n1.toNat * 65536 + s.yNat - k)) =
            if d ≤ k ∧ (k - d) / 2 < k / 2 then t.read8 (addrOfNat (n1.toNat * 65536 + s.yNat - (k - d)))
            else s.read8 (addrOfNat (n2.toNat * 65536 + s.xNat - k))

/-- R248, with the parameter true: an acceptable request after the first step ends MVN or MVP with the address of the
instruction in PG:PC, the bytes left in A, X and Y moved by two, DT as it was, one word moved, and the request still to come.
Where the boundary lies is the model's choice (log 14). -/
def Obligations.MoveBlockInterrupted : Prop :=
  ∀ (n1 n2 : Byte) (s : State) (r : Request),
    s.plat.blockMoveInterruptible = true → s.arriving.reset = none →
    choose s.plat s.ps s.arriving.pending = some r →
    s.x.toNat = s.xNat → s.y.toNat = s.yNat → 2 < lowNat s.wm s.a →
    (s.xNat + lowNat s.wm s.a ≤ 2 ^ s.wx.bits → s.yNat + lowNat s.wm s.a ≤ 2 ^ s.wx.bits →
      ∃ t u, u = (s.after16 (mkAddr n2 s.x)).write16 (mkAddr n1 s.y) (s.read16 (mkAddr n2 s.x)) ∧
        exec (.mvn n1 n2) s = .next t ∧
        t = { u with a := t.a, x := t.x, y := t.y, pg := t.pg, pc := t.pc, jumped := true } ∧
        t.next = s.next - 3#24 ∧ LowBits s.wm s.a t.a (lowNat s.wm s.a - 2) ∧
        LowBits s.wx s.x t.x (s.xNat + 2) ∧ LowBits s.wx s.y t.y (s.yNat + 2)) ∧
    (lowNat s.wm s.a ≤ s.xNat + 1 → lowNat s.wm s.a ≤ s.yNat + 1 →
      ∃ t u, u = (s.after16 (mkAddr n2 (s.x - 1#16))).write16 (mkAddr n1 (s.y - 1#16))
          (s.read16 (mkAddr n2 (s.x - 1#16))) ∧
        exec (.mvp n1 n2) s = .next t ∧
        t = { u with a := t.a, x := t.x, y := t.y, pg := t.pg, pc := t.pc, jumped := true } ∧
        t.next = s.next - 3#24 ∧ LowBits s.wm s.a t.a (lowNat s.wm s.a - 2) ∧
        LowBits s.wx s.x t.x (s.xNat - 2) ∧ LowBits s.wx s.y t.y (s.yNat - 2))

/-! ## Arithmetic -/

/-- R250, with the effects of ADC and SBC in binary mode: the sum or difference modulo 2^w, C, and V exactly when the signed
result is out of range. -/
def Obligations.BinaryAddSubtract : Prop :=
  ∀ (r : Acc) (src : Src) (s : State), s.ps.d = false →
    (∃ t, exec (.adc r src) s = .next t ∧ OnlyAcc r (s.afterOperand s.wm src) t ∧ SameBytes s t ∧
      ∃ total : Nat, total = lowNat s.wm (s.acc r) + s.operandNat s.wm src + s.ps.c.toNat ∧
        LowBits s.wm (s.acc r) (t.acc r) total ∧
        ∃ sum : Int, sum = signedNat s.wm (lowNat s.wm (s.acc r)) + signedNat s.wm (s.operandNat s.wm src) + s.ps.c.toNat ∧
          t.ps = { s.ps.nz s.wm total with
            c := decide (2 ^ s.wm.bits ≤ total)
            v := decide (sum < -2 ^ (s.wm.bits - 1) ∨ 2 ^ (s.wm.bits - 1) ≤ sum) }) ∧
    (∃ t, exec (.sbc r src) s = .next t ∧ OnlyAcc r (s.afterOperand s.wm src) t ∧ SameBytes s t ∧
      ∃ taken : Nat, taken = s.operandNat s.wm src + (!s.ps.c).toNat ∧
        LowBits s.wm (s.acc r) (t.acc r) (lowNat s.wm (s.acc r) + 2 ^ s.wm.bits - taken) ∧
        ∃ diff : Int,
          diff = signedNat s.wm (lowNat s.wm (s.acc r)) - signedNat s.wm (s.operandNat s.wm src) - (!s.ps.c).toNat ∧
          t.ps = { s.ps.nz s.wm (lowNat s.wm (s.acc r) + 2 ^ s.wm.bits - taken) with
            c := decide (taken ≤ lowNat s.wm (s.acc r))
            v := decide (diff < -2 ^ (s.wm.bits - 1) ∨ 2 ^ (s.wm.bits - 1) ≤ diff) })

/-- R251, with the effects of ADC and SBC in decimal mode. N and V (and Z of ADC) may be anything; with a digit above 9 the
result, C and Z may be anything too, and the high byte and the other flags still stay (D13). -/
def Obligations.DecimalAddSubtract : Prop :=
  ∀ (r : Acc) (src : Src) (s : State), s.ps.d = true →
    (∃ t, exec (.adc r src) s = .next t ∧ OnlyAcc r (s.afterOperand s.wm src) t ∧ SameBytes s t ∧
      t.ps = { s.ps with n := t.ps.n, v := t.ps.v, z := t.ps.z, c := t.ps.c } ∧
      LowBits s.wm (s.acc r) (t.acc r) (t.acc r).toNat ∧
      (isBcd s.wm (s.acc r) = true → isBcd s.wm (s.operand s.wm src) = true →
        ∃ total : Nat, total = decValue s.wm (s.acc r) + decValue s.wm (s.operand s.wm src) + s.ps.c.toNat ∧
          isBcd s.wm (t.acc r) = true ∧ decValue s.wm (t.acc r) = total % decLimit s.wm ∧
          t.ps.c = decide (decLimit s.wm ≤ total))) ∧
    (∃ t, exec (.sbc r src) s = .next t ∧ OnlyAcc r (s.afterOperand s.wm src) t ∧ SameBytes s t ∧
      t.ps = { s.ps with n := t.ps.n, v := t.ps.v, z := t.ps.z, c := t.ps.c } ∧
      LowBits s.wm (s.acc r) (t.acc r) (t.acc r).toNat ∧
      (isBcd s.wm (s.acc r) = true → isBcd s.wm (s.operand s.wm src) = true →
        ∃ diff : Int, diff = (decValue s.wm (s.acc r) : Int) - decValue s.wm (s.operand s.wm src) - (!s.ps.c).toNat ∧
          isBcd s.wm (t.acc r) = true ∧ (decValue s.wm (t.acc r) : Int) = diff % decLimit s.wm ∧
          t.ps.c = decide (0 ≤ diff) ∧ t.ps.z = decide (lowNat s.wm (t.acc r) = 0)))

/-- INC and DEC of an accumulator or of memory: modulo 2^w, N and Z, no carry. -/
def Obligations.IncrementDecrement : Prop :=
  ∀ (dst : Dst) (s : State), s.MemOk →
    (∃ t, exec (.inc dst) s = .next t ∧ WritesDst s t s.wm dst (s.dstNat s.wm dst + 1) ∧
      t.ps = s.ps.nz s.wm (s.dstNat s.wm dst + 1)) ∧
    (∃ t, exec (.dec dst) s = .next t ∧ WritesDst s t s.wm dst (s.dstNat s.wm dst + 65535) ∧
      t.ps = s.ps.nz s.wm (s.dstNat s.wm dst + 65535))

/-- R256 to R259: INX, INY, DEX, DEY at the width of flag x. -/
def Obligations.IncrementDecrementIndex : Prop :=
  encode .inx = [0xE8#8] ∧ encode .iny = [0xC8#8] ∧ encode .dex = [0xCA#8] ∧ encode .dey = [0x88#8] ∧
  ∀ s : State,
    (∀ p ∈ [(Instr.inx, s.x.toNat + 1), (.dex, s.x.toNat + 65535)],
      ∃ t, exec p.1 s = .next t ∧ LowBits s.wx s.x t.x p.2 ∧ t.ps = s.ps.nz s.wx p.2 ∧
        t = { s with x := t.x, ps := t.ps } ∧ SameBytes s t) ∧
    (∀ p ∈ [(Instr.iny, s.y.toNat + 1), (.dey, s.y.toNat + 65535)],
      ∃ t, exec p.1 s = .next t ∧ LowBits s.wx s.y t.y p.2 ∧ t.ps = s.ps.nz s.wx p.2 ∧
        t = { s with y := t.y, ps := t.ps } ∧ SameBytes s t)

/-- MPY and MPYS: the product of 2w bits in B and A, N and Z of the product; MPY clears C, MPYS leaves it. -/
def Obligations.Multiply : Prop :=
  ∀ (src : Src) (s : State),
    (∃ t, exec (.mpy src) s = .next t ∧
      t = { s with a := t.a, b := t.b, ps := t.ps, bus := (s.afterOperand s.wm src).bus } ∧ SameBytes s t ∧
      ∃ p : Nat, p = lowNat s.wm s.a * s.operandNat s.wm src ∧
        LowBits s.wm s.a t.a p ∧ LowBits s.wm s.b t.b (p / 2 ^ s.wm.bits) ∧
        t.ps = { s.ps with n := decide (2 ^ (2 * s.wm.bits - 1) ≤ p), z := decide (p = 0), c := false }) ∧
    (∃ t, exec (.mpys src) s = .next t ∧
      t = { s with a := t.a, b := t.b, ps := t.ps, bus := (s.afterOperand s.wm src).bus } ∧ SameBytes s t ∧
      ∃ p : Int, p = signedNat s.wm (lowNat s.wm s.a) * signedNat s.wm (s.operandNat s.wm src) ∧
        (lowNat s.wm t.b * 2 ^ s.wm.bits + lowNat s.wm t.a : Int) = p % 2 ^ (2 * s.wm.bits) ∧
        t.a.toNat / 2 ^ s.wm.bits = s.a.toNat / 2 ^ s.wm.bits ∧ t.b.toNat / 2 ^ s.wm.bits = s.b.toNat / 2 ^ s.wm.bits ∧
        t.ps = { s.ps with n := decide (p < 0), z := decide (p = 0) })

/-- DIV with a divisor that is not 0: quotient and remainder with N, Z, V = C = 0; or overflow with V = C = 1, N and Z as
they were, and any low bits in A and B (R265). -/
def Obligations.DivideUnsigned : Prop :=
  ∀ (src : Src) (s : State), s.operandNat s.wm src ≠ 0 →
    ∃ t, exec (.div src) s = .next t ∧
      t = { s with a := t.a, b := t.b, ps := t.ps, bus := (s.afterOperand s.wm src).bus } ∧ SameBytes s t ∧
      ∃ n q : Nat, n = lowNat s.wm s.b * 2 ^ s.wm.bits + lowNat s.wm s.a ∧ q = n / s.operandNat s.wm src ∧
        (if q < 2 ^ s.wm.bits then
          LowBits s.wm s.a t.a q ∧ LowBits s.wm s.b t.b (n % s.operandNat s.wm src) ∧
            t.ps = { s.ps.nz s.wm q with v := false, c := false }
        else
          t.ps = { s.ps with v := true, c := true } ∧
            t.a.toNat / 2 ^ s.wm.bits = s.a.toNat / 2 ^ s.wm.bits ∧
            t.b.toNat / 2 ^ s.wm.bits = s.b.toNat / 2 ^ s.wm.bits)

/-- DIVS with a divisor that is not 0: the quotient rounded toward zero, the remainder with the sign of the dividend; or
overflow outside the printed range (R265). -/
def Obligations.DivideSigned : Prop :=
  ∀ (src : Src) (s : State), s.operandNat s.wm src ≠ 0 →
    ∃ t, exec (.divs src) s = .next t ∧
      t = { s with a := t.a, b := t.b, ps := t.ps, bus := (s.afterOperand s.wm src).bus } ∧ SameBytes s t ∧
      ∃ n d q : Int,
        n = signedNat s.wm (lowNat s.wm s.b) * 2 ^ s.wm.bits + lowNat s.wm s.a ∧
        d = signedNat s.wm (s.operandNat s.wm src) ∧ q = n.tdiv d ∧
        (if -(2 ^ (s.wm.bits - 1) - 1) ≤ q ∧ q ≤ 2 ^ (s.wm.bits - 1) - 1 then
          signedNat s.wm (lowNat s.wm t.a) = q ∧ signedNat s.wm (lowNat s.wm t.b) = n - q * d ∧
            t.a.toNat / 2 ^ s.wm.bits = s.a.toNat / 2 ^ s.wm.bits ∧
            t.b.toNat / 2 ^ s.wm.bits = s.b.toNat / 2 ^ s.wm.bits ∧
            t.ps = { s.ps with n := decide (q < 0), z := decide (q = 0), v := false, c := false }
        else
          t.ps = { s.ps with v := true, c := true } ∧
            t.a.toNat / 2 ^ s.wm.bits = s.a.toNat / 2 ^ s.wm.bits ∧
            t.b.toNat / 2 ^ s.wm.bits = s.b.toNat / 2 ^ s.wm.bits)

/-- R264, R374: a divisor of 0 is the zero division interrupt: the frame of PG, PC and PS is pushed, I is set, and control
goes to the address at 00FFFCh in bank 0; accumulators and the other flags stay. That the pushed address is `na` is D5. -/
def Obligations.ZeroDivision : Prop :=
  ∀ (src : Src) (s : State), s.MemOk → s.operandNat s.wm src = 0 →
    ∃ t u, u = (s.afterOperand s.wm src).pushAll (frameItems s.next s.ps) ∧
      exec (.div src) s = .next t ∧ exec (.divs src) s = .next t ∧
      Pushes s t (frameBytes s.next s.ps) ∧ t.pc.toNat = u.wordAt 0x00FFFC ∧
      t = { s with
        sp := t.sp, mem := t.mem, pg := 0x00#8, pc := t.pc, ps := { s.ps with i := true }, jumped := true
        bus := (u.after16 0x00FFFC#24).bus }

/-! ## Logic, comparison, shifts -/

/-- AND, ORA, EOR: bitwise on the low w bits of the accumulator, N and Z. -/
def Obligations.LogicInstructions : Prop :=
  ∀ (r : Acc) (src : Src) (s : State),
    ∀ p ∈ [(Instr.and r src, lowNat s.wm (s.acc r) &&& s.operandNat s.wm src),
        (.ora r src, lowNat s.wm (s.acc r) ||| s.operandNat s.wm src),
        (.eor r src, lowNat s.wm (s.acc r) ^^^ s.operandNat s.wm src)],
      ∃ t, exec p.1 s = .next t ∧ LowBits s.wm (s.acc r) (t.acc r) p.2 ∧ t.ps = s.ps.nz s.wm p.2 ∧
        OnlyAcc r (s.afterOperand s.wm src) t ∧ SameBytes s t

/-- R283, with CMP, CPX and CPY: N, Z and C of the difference; nothing else changes, V included. -/
def Obligations.CompareInstructions : Prop :=
  ∀ (r : Acc) (src : Src) (s : State),
    ∀ p ∈ [(Instr.cmp r src, s.wm, lowNat s.wm (s.acc r), s.operandNat s.wm src),
        (.cpx src, s.wx, s.xNat, s.operandNat s.wx src), (.cpy src, s.wx, s.yNat, s.operandNat s.wx src)],
      ∃ t, exec p.1 s = .next t ∧ t = { s with ps := t.ps, bus := (s.afterOperand p.2.1 src).bus } ∧ SameBytes s t ∧
        t.ps = { s.ps.nz p.2.1 (p.2.2.1 + 2 ^ p.2.1.bits - p.2.2.2) with c := decide (p.2.2.2 ≤ p.2.2.1) }

/-- R287, with R288 to R292's results: ASL, ASR, LSR, ROL and ROR of an accumulator or of memory. -/
def Obligations.ShiftInstructions : Prop :=
  ∀ (dst : Dst) (s : State), s.MemOk →
    ∃ v top : Nat, v = s.dstNat s.wm dst ∧ top = 2 ^ (s.wm.bits - 1) ∧
      ∀ p ∈ [(Instr.asl dst, v * 2, decide (top ≤ v)), (.asr dst, v / 2 + (if top ≤ v then top else 0), decide (v % 2 = 1)),
          (.lsr dst, v / 2, decide (v % 2 = 1)), (.rol dst, v * 2 + s.ps.c.toNat, decide (top ≤ v)),
          (.ror dst, v / 2 + s.ps.c.toNat * top, decide (v % 2 = 1))],
        ∃ t, exec p.1 s = .next t ∧ WritesDst s t s.wm dst p.2.1 ∧ t.ps = { s.ps.nz s.wm p.2.1 with c := p.2.2 }

/-- RLA: each of the low w bits of A moves up by n places and round; no flag changes. -/
def Obligations.RotateAccumulator : Prop :=
  ∀ (imm : Imm) (s : State),
    ∃ t, exec (.rla imm) s = .next t ∧ t = { s with a := t.a } ∧ SameBytes s t ∧
      t.a.toNat / 2 ^ s.wm.bits = s.a.toNat / 2 ^ s.wm.bits ∧
      ∀ k, k < s.wm.bits → t.a.getLsbD ((k + Imm.nat s.wm imm) % s.wm.bits) = s.a.getLsbD k

/-- R294, R295: EXTS and EXTZ write all 16 bits whatever m is, with N and Z of 16 bits. -/
def Obligations.ExtendAccumulator : Prop :=
  encode (.exts .a) = [0x89#8, 0x8B#8] ∧ encode (.exts .b) = [0x42#8, 0x8B#8] ∧
  encode (.extz .a) = [0x89#8, 0xAB#8] ∧ encode (.extz .b) = [0x42#8, 0xAB#8] ∧
  ∀ (r : Acc) (s : State),
    (∃ t, exec (.exts r) s = .next t ∧
      ((t.acc r).toNat = if (s.acc r).toNat % 256 < 128 then (s.acc r).toNat % 256 else (s.acc r).toNat % 256 + 0xFF00) ∧
      t.ps = s.ps.nz .w16 (t.acc r).toNat ∧ OnlyAcc r s t ∧ SameBytes s t) ∧
    (∃ t, exec (.extz r) s = .next t ∧ (t.acc r).toNat = (s.acc r).toNat % 256 ∧
      t.ps = { s.ps with n := false, z := decide ((s.acc r).toNat % 256 = 0) } ∧ OnlyAcc r s t ∧ SameBytes s t)

/-! ## Bits and flags -/

/-- CLB and SEB: one read and one write of the operand (R76), with the bits of the mask cleared or set; no flag. -/
def Obligations.BitInstructions : Prop :=
  ∀ (md : Mode) (imm : Imm) (s : State), s.MemOk →
    ∃ cleared set : Nat, cleared = s.dstNat s.wm (.mem md) &&& (65535 - Imm.nat s.wm imm) ∧
      set = s.dstNat s.wm (.mem md) ||| Imm.nat s.wm imm ∧
      (∃ t, exec (.clb md imm) s = .next t ∧ Stores s t s.wm (s.ea md) cleared ∧
        t = { s with mem := t.mem, bus := (s.updateMem s.wm md (BitVec.ofNat 16 cleared)).bus }) ∧
      (∃ t, exec (.seb md imm) s = .next t ∧ Stores s t s.wm (s.ea md) set ∧
        t = { s with mem := t.mem, bus := (s.updateMem s.wm md (BitVec.ofNat 16 set)).bus })

/-- R314, R315: CLP and SEP change the flags of PSL whose mask bit is 1, and never IPL. -/
def Obligations.FlagMaskInstructions : Prop :=
  ∀ (imm : Byte) (s : State),
    encode (.clp imm) = [0xC2#8, imm] ∧ encode (.sep imm) = [0xE2#8, imm] ∧
    exec (.clp imm) s = .next { s with ps := { s.ps with
      c := s.ps.c && !imm.getLsbD 0, z := s.ps.z && !imm.getLsbD 1, i := s.ps.i && !imm.getLsbD 2
      d := s.ps.d && !imm.getLsbD 3, x := s.ps.x && !imm.getLsbD 4, m := s.ps.m && !imm.getLsbD 5
      v := s.ps.v && !imm.getLsbD 6, n := s.ps.n && !imm.getLsbD 7 } } ∧
    exec (.sep imm) s = .next { s with ps := { s.ps with
      c := s.ps.c || imm.getLsbD 0, z := s.ps.z || imm.getLsbD 1, i := s.ps.i || imm.getLsbD 2
      d := s.ps.d || imm.getLsbD 3, x := s.ps.x || imm.getLsbD 4, m := s.ps.m || imm.getLsbD 5
      v := s.ps.v || imm.getLsbD 6, n := s.ps.n || imm.getLsbD 7 } }

/-- R316 to R322: CLC, CLI, CLM, CLV, SEC, SEI, SEM write one flag, and nothing else. -/
def Obligations.SingleFlagInstructions : Prop :=
  encode .clc = [0x18#8] ∧ encode .cli = [0x58#8] ∧ encode .clm = [0xD8#8] ∧ encode .clv = [0xB8#8] ∧
  encode .sec = [0x38#8] ∧ encode .sei = [0x78#8] ∧ encode .sem = [0xF8#8] ∧
  ∀ s : State,
    exec .clc s = .next { s with ps := { s.ps with c := false } } ∧
    exec .cli s = .next { s with ps := { s.ps with i := false } } ∧
    exec .clm s = .next { s with ps := { s.ps with m := false } } ∧
    exec .clv s = .next { s with ps := { s.ps with v := false } } ∧
    exec .sec s = .next { s with ps := { s.ps with c := true } } ∧
    exec .sei s = .next { s with ps := { s.ps with i := true } } ∧
    exec .sem s = .next { s with ps := { s.ps with m := true } }

/-! ## Jumps, branches, calls, returns -/

/-- JMP in every form: the 16-bit targets keep the bank of `na`; the pointers of the indirect forms are in that bank. -/
def Obligations.JumpInstructions : Prop :=
  ∀ (target : Target) (s : State),
    ∃ t, exec (.jmp target) s = .next t ∧
      t = { s with pg := t.pg, pc := t.pc, jumped := true, bus := (s.afterTarget target).bus } ∧ SameBytes s t ∧
      (t.next.toNat = match target with
        | .abs mmll => s.pg.toNat * 65536 + mmll.toNat
        | .absL hhmmll => hhmmll.toNat
        | .ind mmll => s.pg.toNat * 65536 + s.wordAt (s.pg.toNat * 65536 + mmll.toNat)
        | .indL mmll => s.longAt (s.pg.toNat * 65536 + mmll.toNat)
        | .indX mmll => s.pg.toNat * 65536 + s.wordAt (s.pg.toNat * 65536 + mmll.toNat + s.xNat))

/-- JSR: the address of the next instruction is pushed, with its bank in the long form only; the pointer of the indexed
indirect form is read after the push. -/
def Obligations.CallInstructions : Prop :=
  ∀ (mmll : Word) (hhmmll : Addr) (s : State), s.MemOk →
    (∃ t, exec (.jsr (.abs mmll)) s = .next t ∧ Pushes s t (pushBytes .w16 s.pc) ∧
      t = { s with
        sp := t.sp, mem := t.mem, pc := mmll, jumped := true, bus := (s.push16 s.pc).bus }) ∧
    (∃ t, exec (.jsr (.absL hhmmll)) s = .next t ∧ Pushes s t (s.pg :: pushBytes .w16 s.pc) ∧
      t = { s with
        sp := t.sp, mem := t.mem, pg := t.pg, pc := t.pc, jumped := true
        bus := (s.pushAll [(.w8, ofByte s.pg), (.w16, s.pc)]).bus } ∧ t.next = hhmmll) ∧
    (∃ t u, u = s.push16 s.pc ∧
      exec (.jsr (.indX mmll)) s = .next t ∧ Pushes s t (pushBytes .w16 s.pc) ∧
      t = { s with
        sp := t.sp, mem := t.mem, pc := t.pc, jumped := true
        bus := (u.after16 (addrOfNat (s.pg.toNat * 65536 + mmll.toNat + s.xNat))).bus } ∧
      t.pc.toNat = u.wordAt (s.pg.toNat * 65536 + mmll.toNat + s.xNat))

/-- R336 to R343, with BRA short and long: a branch goes to the signed sum of 24 bits with the address of the next
instruction; each conditional branch is taken on one value of one flag, and otherwise nothing changes. -/
def Obligations.RelativeBranches : Prop :=
  ∀ (rr : Byte) (rr16 : Word) (s : State),
    (∃ t, exec (.bra (.short rr)) s = .next t ∧ BranchesBy s t rr.toInt) ∧
    (∃ t, exec (.bra (.long rr16)) s = .next t ∧ BranchesBy s t rr16.toInt) ∧
    ∀ p ∈ [(Instr.bcc rr, 0x90#8, s.ps.c, false), (.bcs rr, 0xB0#8, s.ps.c, true), (.bne rr, 0xD0#8, s.ps.z, false),
        (.beq rr, 0xF0#8, s.ps.z, true), (.bpl rr, 0x10#8, s.ps.n, false), (.bmi rr, 0x30#8, s.ps.n, true),
        (.bvc rr, 0x50#8, s.ps.v, false), (.bvs rr, 0x70#8, s.ps.v, true)],
      encode p.1 = [p.2.1, rr] ∧
      ∃ t, exec p.1 s = .next t ∧ (if p.2.2.1 = p.2.2.2 then BranchesBy s t rr.toInt else t = s)

/-- BBC and BBS: the branch is taken when the bits of the mask are all 0, or all 1; memory is read and not written. -/
def Obligations.BitTestBranches : Prop :=
  ∀ (md : Mode) (imm : Imm) (rr : Byte) (s : State),
    ∃ (u : State) (v : Nat), u = { s with bus := (s.afterMem s.wm md).bus } ∧ v = s.operandNat s.wm (.mem md) ∧
      (∃ t, exec (.bbc md imm rr) s = .next t ∧
        (if v &&& Imm.nat s.wm imm = 0 then BranchesBy u t rr.toInt else t = u)) ∧
      (∃ t, exec (.bbs md imm rr) s = .next t ∧
        (if v &&& Imm.nat s.wm imm = Imm.nat s.wm imm then BranchesBy u t rr.toInt else t = u))

/-- R345, R346, R347: RTS, RTL and RTI, which also replaces all eleven bits of PS. -/
def Obligations.ReturnInstructions : Prop :=
  encode .rts = [0x60#8] ∧ encode .rtl = [0x6B#8] ∧ encode .rti = [0x40#8] ∧
  ∀ s : State,
    (∃ t, exec .rts s = .next t ∧
      t = { s with sp := s.sp + 2#16, pc := t.pc, jumped := true, bus := (s.afterPulls [.w16]).bus } ∧ SameBytes s t ∧
      t.pc.toNat = s.pulledNat [] .w16) ∧
    (∃ t, exec .rtl s = .next t ∧
      t = { s with sp := s.sp + 3#16, pc := t.pc, pg := t.pg, jumped := true, bus := (s.afterPulls [.w16, .w8]).bus } ∧
      SameBytes s t ∧ t.pc.toNat = s.pulledNat [] .w16 ∧ t.pg.toNat = s.pulledNat [.w16] .w8) ∧
    (∃ t, exec .rti s = .next t ∧
      t = { s with
        sp := s.sp + 5#16, pc := t.pc, pg := t.pg, ps := t.ps, jumped := true, bus := (s.afterPulls [.w16, .w16, .w8]).bus } ∧
      SameBytes s t ∧
      t.ps.toWord.toNat = s.pulledNat [] .w16 % 2048 ∧ t.pc.toNat = s.pulledNat [.w16] .w16 ∧
      t.pg.toNat = s.pulledNat [.w16, .w16] .w8)

/-! ## Exceptions, interrupts, waiting -/

/-- R30: the word of PS: N V m x D I Z C in bits 7 to 0, IPL in bits 10 to 8, and 0 in bits 15 to 11. -/
def Obligations.StatusWord : Prop :=
  ∀ p : PS, p.toWord.toNat = p.c.toNat + 2 * p.z.toNat + 4 * p.i.toNat + 8 * p.d.toNat + 16 * p.x.toNat + 32 * p.m.toNat +
      64 * p.v.toNat + 128 * p.n.toNat + 256 * p.ipl.toNat ∧ PS.ofWord p.toWord = p

/-- R360: BRK, with R372's frame and vector 00FFFAh; I is set after PS is pushed, IPL stays, the second byte plays no part.
That bits 15 to 11 of the PS word pushed are 0 is the decision D16. -/
def Obligations.BreakInstruction : Prop :=
  ∀ (nn : Byte) (s : State), s.MemOk →
    encode (.brk nn) = [0x00#8, nn] ∧
    ∃ t u, u = s.pushAll (frameItems s.next s.ps) ∧ exec (.brk nn) s = .next t ∧ Pushes s t (frameBytes s.next s.ps) ∧
      t.pc.toNat = u.wordAt 0x00FFFA ∧
      t = { s with
        sp := t.sp, mem := t.mem, pg := 0x00#8, pc := t.pc, ps := { s.ps with i := true }, jumped := true
        bus := (u.after16 0x00FFFA#24).bus }

/-- R361, R362, R363: NOP does nothing; STP and WIT set the run state and nothing else. -/
def Obligations.NopStopWait : Prop :=
  encode .nop = [0xEA#8] ∧ encode .stp = [0xDB#8] ∧ encode .wit = [0xCB#8] ∧
  ∀ s : State, exec .nop s = .next s ∧ exec .stp s = .next { s with run := .stopped } ∧
    exec .wit s = .next { s with run := .waiting }

/-- R380, R382: a non-maskable request is acceptable always, a maskable one when I = 0 and its level is above IPL. Of several
acceptable ones a non-maskable one is chosen, else one of the highest level, else the earliest source of the platform's list;
none is chosen exactly when none is acceptable. -/
def Obligations.InterruptChoice : Prop :=
  ∀ (p : Platform) (ps : PS) (pending : List Request),
    (∀ (r : Request) (src : Source), p.sources[r.source]? = some src →
      (acceptable p ps r = true ↔
        src.maskable = false ∨ ∃ l, r.level = some l ∧ ps.i = false ∧ ps.ipl.toNat < l.toNat)) ∧
    (choose p ps pending = none ↔ ∀ q ∈ pending, acceptable p ps q = false) ∧
    ∀ r, choose p ps pending = some r → r ∈ pending ∧ acceptable p ps r = true ∧
      ∀ q ∈ pending, acceptable p ps q = true → ∀ sr sq, p.sources[r.source]? = some sr → p.sources[q.source]? = some sq →
        (sq.maskable = false → sr.maskable = false) ∧
        (sr.maskable = true → (q.level.getD 0#3).toNat ≤ (r.level.getD 0#3).toNat) ∧
        (sr.maskable = sq.maskable → sr.maskable = false ∨ r.level = q.level → r.source ≤ q.source)

/-- R372, R375, R381, R392: at a boundary with an acceptable request, in any run state, the entry happens instead of the next
instruction: five bytes pushed, I set, IPL replaced by the level if there is one, PG 00h, PC from the source's vector; nothing
prefetched is left (R421). That the vector is in bank 0 and PG becomes 00h is the decision D20, that requests are sampled at
each boundary D8, the pushed bits 15 to 11 of PS D16. -/
def Obligations.InterruptEntry : Prop :=
  ∀ (s : State) (r : Request) (src : Source), s.MemOk → s.inReset = false → s.arriving.reset = none →
    choose s.plat s.ps s.arriving.pending = some r → s.plat.sources[r.source]? = some src →
    ∃ t u, u = s.beginStep.pushAll (frameItems s.next s.ps) ∧ step s = ifAllowed (.next t) ∧
      Pushes s t (frameBytes s.next s.ps) ∧ t.pc.toNat = u.wordAt src.vector.toNat ∧
      t = { s with
        sp := t.sp, mem := t.mem, pg := 0x00#8, pc := t.pc, run := .running, inputs := s.inputs.tail
        bus := (u.after16 (addrOfNat src.vector.toNat)).bus, jumped := true, stale := []
        ps := { s.ps with i := true, ipl := r.level.getD s.ps.ipl } }

/-- R377: RTI after an entry restores PG, PC, PS and S, where the stack is in RAM; every other register is as it was. -/
def Obligations.ReturnUndoesEntry : Prop :=
  ∀ (s : State) (ret : Addr) (vec : Word) (level : Option (BitVec 3)), s.MemOk → stackIsRam s.plat s.sp 5 →
    ∃ t u, t = s.enter ret vec level ∧ exec .rti t = .next u ∧
      u = { s with pg := bankOf ret, pc := offsetOf ret, mem := t.mem, bus := t.bus, jumped := true } ∧ u.next = ret

/-- R392, R364: waiting or stopped without an acceptable request, no instruction runs and every register and byte stays; a
masked request restarts the clock exactly where the platform says so. -/
def Obligations.WaitingStaysUnlessWoken : Prop :=
  ∀ s : State, s.inReset = false → s.run ≠ .running → s.arriving.reset = none →
    choose s.plat s.ps s.arriving.pending = none →
    ∃ t, step s = .next t ∧
      t = { s with
        run := t.run, inputs := s.inputs.tail, jumped := false
        bus := { s.bus with draws := s.bus.draws + 1, denied := none, written := [] } } ∧
      t.run = (if s.plat.maskedRequestWakes = true ∧ ∃ r ∈ s.arriving.pending, r.source < s.plat.sources.length
        then .running else s.run)

end Slice0Obligations
end

