-- ==== Sys2Proof/Laws/Bits.lean ====
section
/-! SUPPORT. The bit-field helpers in numbers: what each gives as a natural number. -/

namespace Sys2Proof.Machine

@[simp] theorem wordLo_toNat (v : Word) : (wordLo v).toNat = v.toNat % 256 := by
  simp [wordLo, BitVec.extractLsb'_toNat]

@[simp] theorem wordHi_toNat (v : Word) : (wordHi v).toNat = v.toNat / 256 := by
  have := v.isLt
  simp [wordHi, BitVec.extractLsb'_toNat, Nat.shiftRight_eq_div_pow]; omega

@[simp] theorem loByte_toNat (v : Word) : (loByte v).toNat = v.toNat % 256 := by
  simp [loByte, BitVec.extractLsb'_toNat]

@[simp] theorem hiByte_toNat (v : Word) : (hiByte v).toNat = v.toNat / 256 := by
  have := v.isLt
  simp [hiByte, BitVec.extractLsb'_toNat, Nat.shiftRight_eq_div_pow]; omega

@[simp] theorem append_byte_toNat (hi lo : Byte) : (hi ++ lo : Word).toNat = hi.toNat * 256 + lo.toNat := by
  rw [BitVec.toNat_append, Nat.shiftLeft_eq, Nat.mul_comm, ← Nat.two_pow_add_eq_or_of_lt lo.isLt]

theorem append_addr_toNat (hi : Byte) (lo : Word) : (hi ++ lo : Addr).toNat = hi.toNat * 65536 + lo.toNat := by
  rw [BitVec.toNat_append, Nat.shiftLeft_eq, Nat.mul_comm, ← Nat.two_pow_add_eq_or_of_lt lo.isLt]

@[simp] theorem mkAddr_toNat (bank : Byte) (offset : Word) :
    (mkAddr bank offset).toNat = bank.toNat * 65536 + offset.toNat := append_addr_toNat bank offset

@[simp] theorem ofByte_toNat (v : Byte) : (ofByte v).toNat = v.toNat := by simp [ofByte]

@[simp] theorem bankOf_toNat (a : Addr) : (bankOf a).toNat = a.toNat / 65536 := by
  have := a.isLt
  simp [bankOf, BitVec.extractLsb'_toNat, Nat.shiftRight_eq_div_pow]; omega

@[simp] theorem offsetOf_toNat (a : Addr) : (offsetOf a).toNat = a.toNat % 65536 := by
  simp [offsetOf, BitVec.extractLsb'_toNat]

@[simp] theorem bankOf_mkAddr (bank : Byte) (offset : Word) : bankOf (mkAddr bank offset) = bank := by
  apply BitVec.eq_of_toNat_eq; have := offset.isLt; simp; omega

@[simp] theorem offsetOf_mkAddr (bank : Byte) (offset : Word) : offsetOf (mkAddr bank offset) = offset := by
  apply BitVec.eq_of_toNat_eq; have := offset.isLt; simp; omega

@[simp] theorem mkAddr_bankOf_offsetOf (a : Addr) : mkAddr (bankOf a) (offsetOf a) = a := by
  apply BitVec.eq_of_toNat_eq; simp; omega

@[simp] theorem wide_toNat (v : Word) : (wide v).toNat = v.toNat := by
  have := v.isLt
  simp [wide]; omega

@[simp] theorem trunc_toNat (w : Width) (v : Word) : (trunc w v).toNat = lowNat w v := by
  have := v.isLt
  cases w <;> simp [trunc, lowNat, Width.bits, BitVec.extractLsb'_toNat]; omega

theorem lowNat_lt (w : Width) (v : Word) : lowNat w v < 2 ^ w.bits := Nat.mod_lt _ (Nat.two_pow_pos _)

theorem lowNat_le (w : Width) (v : Word) : lowNat w v < 65536 := by
  have := lowNat_lt w v
  cases w <;> simp [Width.bits] at this <;> omega

@[simp] theorem ofNatW_toNat (w : Width) (n : Nat) : (ofNatW w n).toNat = n % 2 ^ w.bits := by
  cases w <;> simp [ofNatW, Width.bits]; omega

/-- What a partial write of a register leaves, as the spec says it (R31). -/
theorem merge_lowBits (w : Width) (old v : Word) : LowBits w old (merge w old v) v.toNat := by
  have := v.isLt; have := old.isLt
  cases w <;> simp [LowBits, merge, Width.bits, BitVec.extractLsb'_toNat, Nat.shiftRight_eq_div_pow] <;> omega

theorem LowBits.congr {w : Width} {old new : Word} {v v' : Nat} (h : LowBits w old new v)
    (e : v % 2 ^ w.bits = v' % 2 ^ w.bits) : LowBits w old new v' := ⟨h.1.trans e, h.2⟩

theorem merge_trunc (w : Width) (old v : Word) : merge w old (trunc w v) = merge w old v := by
  apply BitVec.eq_of_toNat_eq
  have := v.isLt; have := old.isLt
  cases w <;> simp [merge, trunc, BitVec.extractLsb'_toNat, Nat.shiftRight_eq_div_pow]

theorem lowNat_merge (w : Width) (old v : Word) : lowNat w (merge w old v) = lowNat w v := (merge_lowBits w old v).1

theorem merge_self (w : Width) (old v : Word) (h : lowNat w v = lowNat w old) : merge w old v = old := by
  apply BitVec.eq_of_toNat_eq
  have := (merge_lowBits w old v)
  obtain ⟨h1, h2⟩ := this
  unfold lowNat at h
  rw [h] at h1
  have e := Nat.div_add_mod (merge w old v).toNat (2 ^ w.bits)
  rw [h1, h2, Nat.div_add_mod] at e
  exact e.symm

theorem topBit_eq (w : Width) (v : Word) : topBit w v = decide (2 ^ (w.bits - 1) ≤ lowNat w v) := by
  have := v.isLt
  rw [Bool.eq_iff_iff, decide_eq_true_iff]
  cases w <;>
    · simp only [topBit, lowNat, Width.bits, BitVec.getLsbD, Nat.testBit, Nat.shiftRight_eq_div_pow,
        Nat.one_and_eq_mod_two, bne_iff_ne, ne_eq]
      omega

theorem isZero_eq (w : Width) (v : Word) : isZero w v = decide (lowNat w v = 0) := by
  simp only [isZero, decide_eq_decide]
  rw [← trunc_toNat]
  constructor
  · intro h; rw [h]; rfl
  · intro h; exact BitVec.eq_of_toNat_eq (by simpa using h)

/-- `SetNZ_w` as the spec says it (R38). -/
theorem setNZ_eq_nz (p : PS) (w : Width) (v : Word) (n : Nat) (h : v.toNat % 2 ^ w.bits = n % 2 ^ w.bits) :
    p.setNZ w v = p.nz w n := by
  simp only [PS.setNZ, PS.nz, topBit_eq, isZero_eq, lowNat, h]

theorem signedW_eq (w : Width) (v : Word) : signedW w v = signedNat w (lowNat w v) := by
  simp only [signedW, signedNat, topBit_eq, trunc_toNat]
  by_cases h : 2 ^ (w.bits - 1) ≤ lowNat w v <;> simp [h, Nat.not_lt.mpr, Nat.lt_of_not_le]

end Sys2Proof.Machine
end

