-- ==== Sys2Proof/Laws/State.lean ====
section
/-! SUPPORT. What each field is after each update of the state, true by unfolding, so that no later proof opens a record. -/

namespace Sys2Proof.Machine

@[simp] theorem State.allowed_a (s : State) : (s.allowed).a = s.a := rfl
@[simp] theorem State.allowed_b (s : State) : (s.allowed).b = s.b := rfl
@[simp] theorem State.allowed_x (s : State) : (s.allowed).x = s.x := rfl
@[simp] theorem State.allowed_y (s : State) : (s.allowed).y = s.y := rfl
@[simp] theorem State.allowed_sp (s : State) : (s.allowed).sp = s.sp := rfl
@[simp] theorem State.allowed_pc (s : State) : (s.allowed).pc = s.pc := rfl
@[simp] theorem State.allowed_pg (s : State) : (s.allowed).pg = s.pg := rfl
@[simp] theorem State.allowed_dt (s : State) : (s.allowed).dt = s.dt := rfl
@[simp] theorem State.allowed_dpr (s : State) : (s.allowed).dpr = s.dpr := rfl
@[simp] theorem State.allowed_ps (s : State) : (s.allowed).ps = s.ps := rfl
@[simp] theorem State.allowed_mem (s : State) : (s.allowed).mem = s.mem := rfl
@[simp] theorem State.allowed_run (s : State) : (s.allowed).run = s.run := rfl
@[simp] theorem State.allowed_inReset (s : State) : (s.allowed).inReset = s.inReset := rfl
@[simp] theorem State.allowed_inputs (s : State) : (s.allowed).inputs = s.inputs := rfl
@[simp] theorem State.allowed_plat (s : State) : (s.allowed).plat = s.plat := rfl
@[simp] theorem State.allowed_bus (s : State) : (s.allowed).bus = { s.bus with denied := none, written := [] } := rfl
@[simp] theorem State.allowed_jumped (s : State) : (s.allowed).jumped = s.jumped := rfl
@[simp] theorem State.allowed_stale (s : State) : (s.allowed).stale = s.stale := rfl

@[simp] theorem State.beginStep_a (s : State) : (s.beginStep).a = s.a := rfl
@[simp] theorem State.beginStep_b (s : State) : (s.beginStep).b = s.b := rfl
@[simp] theorem State.beginStep_x (s : State) : (s.beginStep).x = s.x := rfl
@[simp] theorem State.beginStep_y (s : State) : (s.beginStep).y = s.y := rfl
@[simp] theorem State.beginStep_sp (s : State) : (s.beginStep).sp = s.sp := rfl
@[simp] theorem State.beginStep_pc (s : State) : (s.beginStep).pc = s.pc := rfl
@[simp] theorem State.beginStep_pg (s : State) : (s.beginStep).pg = s.pg := rfl
@[simp] theorem State.beginStep_dt (s : State) : (s.beginStep).dt = s.dt := rfl
@[simp] theorem State.beginStep_dpr (s : State) : (s.beginStep).dpr = s.dpr := rfl
@[simp] theorem State.beginStep_ps (s : State) : (s.beginStep).ps = s.ps := rfl
@[simp] theorem State.beginStep_mem (s : State) : (s.beginStep).mem = s.mem := rfl
@[simp] theorem State.beginStep_run (s : State) : (s.beginStep).run = s.run := rfl
@[simp] theorem State.beginStep_inReset (s : State) : (s.beginStep).inReset = s.inReset := rfl
@[simp] theorem State.beginStep_inputs (s : State) : (s.beginStep).inputs = s.inputs.tail := rfl
@[simp] theorem State.beginStep_plat (s : State) : (s.beginStep).plat = s.plat := rfl
@[simp] theorem State.beginStep_bus (s : State) :
    (s.beginStep).bus = { s.bus with draws := s.bus.draws + 1, denied := none, written := [] } := rfl
@[simp] theorem State.beginStep_jumped (s : State) : (s.beginStep).jumped = false := rfl
@[simp] theorem State.beginStep_stale (s : State) : (s.beginStep).stale = s.stale := rfl

@[simp] theorem State.after8_a (s : State) (p : Addr) : (s.after8 p).a = s.a := rfl
@[simp] theorem State.after8_b (s : State) (p : Addr) : (s.after8 p).b = s.b := rfl
@[simp] theorem State.after8_x (s : State) (p : Addr) : (s.after8 p).x = s.x := rfl
@[simp] theorem State.after8_y (s : State) (p : Addr) : (s.after8 p).y = s.y := rfl
@[simp] theorem State.after8_sp (s : State) (p : Addr) : (s.after8 p).sp = s.sp := rfl
@[simp] theorem State.after8_pc (s : State) (p : Addr) : (s.after8 p).pc = s.pc := rfl
@[simp] theorem State.after8_pg (s : State) (p : Addr) : (s.after8 p).pg = s.pg := rfl
@[simp] theorem State.after8_dt (s : State) (p : Addr) : (s.after8 p).dt = s.dt := rfl
@[simp] theorem State.after8_dpr (s : State) (p : Addr) : (s.after8 p).dpr = s.dpr := rfl
@[simp] theorem State.after8_ps (s : State) (p : Addr) : (s.after8 p).ps = s.ps := rfl
@[simp] theorem State.after8_mem (s : State) (p : Addr) : (s.after8 p).mem = s.mem := rfl
@[simp] theorem State.after8_run (s : State) (p : Addr) : (s.after8 p).run = s.run := rfl
@[simp] theorem State.after8_inReset (s : State) (p : Addr) : (s.after8 p).inReset = s.inReset := rfl
@[simp] theorem State.after8_inputs (s : State) (p : Addr) : (s.after8 p).inputs = s.inputs := rfl
@[simp] theorem State.after8_plat (s : State) (p : Addr) : (s.after8 p).plat = s.plat := rfl
@[simp] theorem State.after8_bus (s : State) (p : Addr) : (s.after8 p).bus = s.bus.afterRead8 s.plat p := rfl
@[simp] theorem State.after8_jumped (s : State) (p : Addr) : (s.after8 p).jumped = s.jumped := rfl
@[simp] theorem State.after8_stale (s : State) (p : Addr) : (s.after8 p).stale = s.stale := rfl

@[simp] theorem State.after16_a (s : State) (p : Addr) : (s.after16 p).a = s.a := rfl
@[simp] theorem State.after16_b (s : State) (p : Addr) : (s.after16 p).b = s.b := rfl
@[simp] theorem State.after16_x (s : State) (p : Addr) : (s.after16 p).x = s.x := rfl
@[simp] theorem State.after16_y (s : State) (p : Addr) : (s.after16 p).y = s.y := rfl
@[simp] theorem State.after16_sp (s : State) (p : Addr) : (s.after16 p).sp = s.sp := rfl
@[simp] theorem State.after16_pc (s : State) (p : Addr) : (s.after16 p).pc = s.pc := rfl
@[simp] theorem State.after16_pg (s : State) (p : Addr) : (s.after16 p).pg = s.pg := rfl
@[simp] theorem State.after16_dt (s : State) (p : Addr) : (s.after16 p).dt = s.dt := rfl
@[simp] theorem State.after16_dpr (s : State) (p : Addr) : (s.after16 p).dpr = s.dpr := rfl
@[simp] theorem State.after16_ps (s : State) (p : Addr) : (s.after16 p).ps = s.ps := rfl
@[simp] theorem State.after16_mem (s : State) (p : Addr) : (s.after16 p).mem = s.mem := rfl
@[simp] theorem State.after16_run (s : State) (p : Addr) : (s.after16 p).run = s.run := rfl
@[simp] theorem State.after16_inReset (s : State) (p : Addr) : (s.after16 p).inReset = s.inReset := rfl
@[simp] theorem State.after16_inputs (s : State) (p : Addr) : (s.after16 p).inputs = s.inputs := rfl
@[simp] theorem State.after16_plat (s : State) (p : Addr) : (s.after16 p).plat = s.plat := rfl
@[simp] theorem State.after16_bus (s : State) (p : Addr) : (s.after16 p).bus = s.bus.afterRead16 s.plat p := rfl
@[simp] theorem State.after16_jumped (s : State) (p : Addr) : (s.after16 p).jumped = s.jumped := rfl
@[simp] theorem State.after16_stale (s : State) (p : Addr) : (s.after16 p).stale = s.stale := rfl

@[simp] theorem State.after24_a (s : State) (p : Addr) : (s.after24 p).a = s.a := rfl
@[simp] theorem State.after24_b (s : State) (p : Addr) : (s.after24 p).b = s.b := rfl
@[simp] theorem State.after24_x (s : State) (p : Addr) : (s.after24 p).x = s.x := rfl
@[simp] theorem State.after24_y (s : State) (p : Addr) : (s.after24 p).y = s.y := rfl
@[simp] theorem State.after24_sp (s : State) (p : Addr) : (s.after24 p).sp = s.sp := rfl
@[simp] theorem State.after24_pc (s : State) (p : Addr) : (s.after24 p).pc = s.pc := rfl
@[simp] theorem State.after24_pg (s : State) (p : Addr) : (s.after24 p).pg = s.pg := rfl
@[simp] theorem State.after24_dt (s : State) (p : Addr) : (s.after24 p).dt = s.dt := rfl
@[simp] theorem State.after24_dpr (s : State) (p : Addr) : (s.after24 p).dpr = s.dpr := rfl
@[simp] theorem State.after24_ps (s : State) (p : Addr) : (s.after24 p).ps = s.ps := rfl
@[simp] theorem State.after24_mem (s : State) (p : Addr) : (s.after24 p).mem = s.mem := rfl
@[simp] theorem State.after24_run (s : State) (p : Addr) : (s.after24 p).run = s.run := rfl
@[simp] theorem State.after24_inReset (s : State) (p : Addr) : (s.after24 p).inReset = s.inReset := rfl
@[simp] theorem State.after24_inputs (s : State) (p : Addr) : (s.after24 p).inputs = s.inputs := rfl
@[simp] theorem State.after24_plat (s : State) (p : Addr) : (s.after24 p).plat = s.plat := rfl
@[simp] theorem State.after24_jumped (s : State) (p : Addr) : (s.after24 p).jumped = s.jumped := rfl
@[simp] theorem State.after24_stale (s : State) (p : Addr) : (s.after24 p).stale = s.stale := rfl

@[simp] theorem State.afterW_a (s : State) (w : Width) (p : Addr) : (s.afterW w p).a = s.a := by cases w <;> rfl
@[simp] theorem State.afterW_b (s : State) (w : Width) (p : Addr) : (s.afterW w p).b = s.b := by cases w <;> rfl
@[simp] theorem State.afterW_x (s : State) (w : Width) (p : Addr) : (s.afterW w p).x = s.x := by cases w <;> rfl
@[simp] theorem State.afterW_y (s : State) (w : Width) (p : Addr) : (s.afterW w p).y = s.y := by cases w <;> rfl
@[simp] theorem State.afterW_sp (s : State) (w : Width) (p : Addr) : (s.afterW w p).sp = s.sp := by cases w <;> rfl
@[simp] theorem State.afterW_pc (s : State) (w : Width) (p : Addr) : (s.afterW w p).pc = s.pc := by cases w <;> rfl
@[simp] theorem State.afterW_pg (s : State) (w : Width) (p : Addr) : (s.afterW w p).pg = s.pg := by cases w <;> rfl
@[simp] theorem State.afterW_dt (s : State) (w : Width) (p : Addr) : (s.afterW w p).dt = s.dt := by cases w <;> rfl
@[simp] theorem State.afterW_dpr (s : State) (w : Width) (p : Addr) : (s.afterW w p).dpr = s.dpr := by cases w <;> rfl
@[simp] theorem State.afterW_ps (s : State) (w : Width) (p : Addr) : (s.afterW w p).ps = s.ps := by cases w <;> rfl
@[simp] theorem State.afterW_mem (s : State) (w : Width) (p : Addr) : (s.afterW w p).mem = s.mem := by cases w <;> rfl
@[simp] theorem State.afterW_run (s : State) (w : Width) (p : Addr) : (s.afterW w p).run = s.run := by cases w <;> rfl
@[simp] theorem State.afterW_inReset (s : State) (w : Width) (p : Addr) : (s.afterW w p).inReset = s.inReset := by cases w <;> rfl
@[simp] theorem State.afterW_inputs (s : State) (w : Width) (p : Addr) : (s.afterW w p).inputs = s.inputs := by cases w <;> rfl
@[simp] theorem State.afterW_plat (s : State) (w : Width) (p : Addr) : (s.afterW w p).plat = s.plat := by cases w <;> rfl
@[simp] theorem State.afterW_jumped (s : State) (w : Width) (p : Addr) : (s.afterW w p).jumped = s.jumped := by cases w <;> rfl
@[simp] theorem State.afterW_stale (s : State) (w : Width) (p : Addr) : (s.afterW w p).stale = s.stale := by cases w <;> rfl

@[simp] theorem State.afterEa_a (s : State) (md : Mode) : (s.afterEa md).a = s.a := by cases md <;> rfl
@[simp] theorem State.afterEa_b (s : State) (md : Mode) : (s.afterEa md).b = s.b := by cases md <;> rfl
@[simp] theorem State.afterEa_x (s : State) (md : Mode) : (s.afterEa md).x = s.x := by cases md <;> rfl
@[simp] theorem State.afterEa_y (s : State) (md : Mode) : (s.afterEa md).y = s.y := by cases md <;> rfl
@[simp] theorem State.afterEa_sp (s : State) (md : Mode) : (s.afterEa md).sp = s.sp := by cases md <;> rfl
@[simp] theorem State.afterEa_pc (s : State) (md : Mode) : (s.afterEa md).pc = s.pc := by cases md <;> rfl
@[simp] theorem State.afterEa_pg (s : State) (md : Mode) : (s.afterEa md).pg = s.pg := by cases md <;> rfl
@[simp] theorem State.afterEa_dt (s : State) (md : Mode) : (s.afterEa md).dt = s.dt := by cases md <;> rfl
@[simp] theorem State.afterEa_dpr (s : State) (md : Mode) : (s.afterEa md).dpr = s.dpr := by cases md <;> rfl
@[simp] theorem State.afterEa_ps (s : State) (md : Mode) : (s.afterEa md).ps = s.ps := by cases md <;> rfl
@[simp] theorem State.afterEa_mem (s : State) (md : Mode) : (s.afterEa md).mem = s.mem := by cases md <;> rfl
@[simp] theorem State.afterEa_run (s : State) (md : Mode) : (s.afterEa md).run = s.run := by cases md <;> rfl
@[simp] theorem State.afterEa_inReset (s : State) (md : Mode) : (s.afterEa md).inReset = s.inReset := by cases md <;> rfl
@[simp] theorem State.afterEa_inputs (s : State) (md : Mode) : (s.afterEa md).inputs = s.inputs := by cases md <;> rfl
@[simp] theorem State.afterEa_plat (s : State) (md : Mode) : (s.afterEa md).plat = s.plat := by cases md <;> rfl
@[simp] theorem State.afterEa_jumped (s : State) (md : Mode) : (s.afterEa md).jumped = s.jumped := by cases md <;> rfl
@[simp] theorem State.afterEa_stale (s : State) (md : Mode) : (s.afterEa md).stale = s.stale := by cases md <;> rfl

@[simp] theorem State.afterMem_a (s : State) (w : Width) (md : Mode) : (s.afterMem w md).a = s.a := by simp [State.afterMem]
@[simp] theorem State.afterMem_b (s : State) (w : Width) (md : Mode) : (s.afterMem w md).b = s.b := by simp [State.afterMem]
@[simp] theorem State.afterMem_x (s : State) (w : Width) (md : Mode) : (s.afterMem w md).x = s.x := by simp [State.afterMem]
@[simp] theorem State.afterMem_y (s : State) (w : Width) (md : Mode) : (s.afterMem w md).y = s.y := by simp [State.afterMem]
@[simp] theorem State.afterMem_sp (s : State) (w : Width) (md : Mode) : (s.afterMem w md).sp = s.sp := by simp [State.afterMem]
@[simp] theorem State.afterMem_pc (s : State) (w : Width) (md : Mode) : (s.afterMem w md).pc = s.pc := by simp [State.afterMem]
@[simp] theorem State.afterMem_pg (s : State) (w : Width) (md : Mode) : (s.afterMem w md).pg = s.pg := by simp [State.afterMem]
@[simp] theorem State.afterMem_dt (s : State) (w : Width) (md : Mode) : (s.afterMem w md).dt = s.dt := by simp [State.afterMem]
@[simp] theorem State.afterMem_dpr (s : State) (w : Width) (md : Mode) : (s.afterMem w md).dpr = s.dpr := by simp [State.afterMem]
@[simp] theorem State.afterMem_ps (s : State) (w : Width) (md : Mode) : (s.afterMem w md).ps = s.ps := by simp [State.afterMem]
@[simp] theorem State.afterMem_mem (s : State) (w : Width) (md : Mode) : (s.afterMem w md).mem = s.mem := by simp [State.afterMem]
@[simp] theorem State.afterMem_run (s : State) (w : Width) (md : Mode) : (s.afterMem w md).run = s.run := by simp [State.afterMem]
@[simp] theorem State.afterMem_inReset (s : State) (w : Width) (md : Mode) : (s.afterMem w md).inReset = s.inReset := by simp [State.afterMem]
@[simp] theorem State.afterMem_inputs (s : State) (w : Width) (md : Mode) : (s.afterMem w md).inputs = s.inputs := by simp [State.afterMem]
@[simp] theorem State.afterMem_plat (s : State) (w : Width) (md : Mode) : (s.afterMem w md).plat = s.plat := by simp [State.afterMem]
@[simp] theorem State.afterMem_jumped (s : State) (w : Width) (md : Mode) : (s.afterMem w md).jumped = s.jumped := by simp [State.afterMem]
@[simp] theorem State.afterMem_stale (s : State) (w : Width) (md : Mode) : (s.afterMem w md).stale = s.stale := by simp [State.afterMem]

@[simp] theorem State.afterOperand_a (s : State) (w : Width) (src : Src) : (s.afterOperand w src).a = s.a := by cases src <;> simp [State.afterOperand]
@[simp] theorem State.afterOperand_b (s : State) (w : Width) (src : Src) : (s.afterOperand w src).b = s.b := by cases src <;> simp [State.afterOperand]
@[simp] theorem State.afterOperand_x (s : State) (w : Width) (src : Src) : (s.afterOperand w src).x = s.x := by cases src <;> simp [State.afterOperand]
@[simp] theorem State.afterOperand_y (s : State) (w : Width) (src : Src) : (s.afterOperand w src).y = s.y := by cases src <;> simp [State.afterOperand]
@[simp] theorem State.afterOperand_sp (s : State) (w : Width) (src : Src) : (s.afterOperand w src).sp = s.sp := by cases src <;> simp [State.afterOperand]
@[simp] theorem State.afterOperand_pc (s : State) (w : Width) (src : Src) : (s.afterOperand w src).pc = s.pc := by cases src <;> simp [State.afterOperand]
@[simp] theorem State.afterOperand_pg (s : State) (w : Width) (src : Src) : (s.afterOperand w src).pg = s.pg := by cases src <;> simp [State.afterOperand]
@[simp] theorem State.afterOperand_dt (s : State) (w : Width) (src : Src) : (s.afterOperand w src).dt = s.dt := by cases src <;> simp [State.afterOperand]
@[simp] theorem State.afterOperand_dpr (s : State) (w : Width) (src : Src) : (s.afterOperand w src).dpr = s.dpr := by cases src <;> simp [State.afterOperand]
@[simp] theorem State.afterOperand_ps (s : State) (w : Width) (src : Src) : (s.afterOperand w src).ps = s.ps := by cases src <;> simp [State.afterOperand]
@[simp] theorem State.afterOperand_mem (s : State) (w : Width) (src : Src) : (s.afterOperand w src).mem = s.mem := by cases src <;> simp [State.afterOperand]
@[simp] theorem State.afterOperand_run (s : State) (w : Width) (src : Src) : (s.afterOperand w src).run = s.run := by cases src <;> simp [State.afterOperand]
@[simp] theorem State.afterOperand_inReset (s : State) (w : Width) (src : Src) : (s.afterOperand w src).inReset = s.inReset := by cases src <;> simp [State.afterOperand]
@[simp] theorem State.afterOperand_inputs (s : State) (w : Width) (src : Src) : (s.afterOperand w src).inputs = s.inputs := by cases src <;> simp [State.afterOperand]
@[simp] theorem State.afterOperand_plat (s : State) (w : Width) (src : Src) : (s.afterOperand w src).plat = s.plat := by cases src <;> simp [State.afterOperand]
@[simp] theorem State.afterOperand_jumped (s : State) (w : Width) (src : Src) : (s.afterOperand w src).jumped = s.jumped := by cases src <;> simp [State.afterOperand]
@[simp] theorem State.afterOperand_stale (s : State) (w : Width) (src : Src) : (s.afterOperand w src).stale = s.stale := by cases src <;> simp [State.afterOperand]

@[simp] theorem State.afterTarget_a (s : State) (t : Target) : (s.afterTarget t).a = s.a := by cases t <;> rfl
@[simp] theorem State.afterTarget_b (s : State) (t : Target) : (s.afterTarget t).b = s.b := by cases t <;> rfl
@[simp] theorem State.afterTarget_x (s : State) (t : Target) : (s.afterTarget t).x = s.x := by cases t <;> rfl
@[simp] theorem State.afterTarget_y (s : State) (t : Target) : (s.afterTarget t).y = s.y := by cases t <;> rfl
@[simp] theorem State.afterTarget_sp (s : State) (t : Target) : (s.afterTarget t).sp = s.sp := by cases t <;> rfl
@[simp] theorem State.afterTarget_pc (s : State) (t : Target) : (s.afterTarget t).pc = s.pc := by cases t <;> rfl
@[simp] theorem State.afterTarget_pg (s : State) (t : Target) : (s.afterTarget t).pg = s.pg := by cases t <;> rfl
@[simp] theorem State.afterTarget_dt (s : State) (t : Target) : (s.afterTarget t).dt = s.dt := by cases t <;> rfl
@[simp] theorem State.afterTarget_dpr (s : State) (t : Target) : (s.afterTarget t).dpr = s.dpr := by cases t <;> rfl
@[simp] theorem State.afterTarget_ps (s : State) (t : Target) : (s.afterTarget t).ps = s.ps := by cases t <;> rfl
@[simp] theorem State.afterTarget_mem (s : State) (t : Target) : (s.afterTarget t).mem = s.mem := by cases t <;> rfl
@[simp] theorem State.afterTarget_run (s : State) (t : Target) : (s.afterTarget t).run = s.run := by cases t <;> rfl
@[simp] theorem State.afterTarget_inReset (s : State) (t : Target) : (s.afterTarget t).inReset = s.inReset := by cases t <;> rfl
@[simp] theorem State.afterTarget_inputs (s : State) (t : Target) : (s.afterTarget t).inputs = s.inputs := by cases t <;> rfl
@[simp] theorem State.afterTarget_plat (s : State) (t : Target) : (s.afterTarget t).plat = s.plat := by cases t <;> rfl
@[simp] theorem State.afterTarget_jumped (s : State) (t : Target) : (s.afterTarget t).jumped = s.jumped := by cases t <;> rfl
@[simp] theorem State.afterTarget_stale (s : State) (t : Target) : (s.afterTarget t).stale = s.stale := by cases t <;> rfl

@[simp] theorem State.write8_a (s : State) (p : Addr) (v : Byte) : (s.write8 p v).a = s.a := rfl
@[simp] theorem State.write8_b (s : State) (p : Addr) (v : Byte) : (s.write8 p v).b = s.b := rfl
@[simp] theorem State.write8_x (s : State) (p : Addr) (v : Byte) : (s.write8 p v).x = s.x := rfl
@[simp] theorem State.write8_y (s : State) (p : Addr) (v : Byte) : (s.write8 p v).y = s.y := rfl
@[simp] theorem State.write8_sp (s : State) (p : Addr) (v : Byte) : (s.write8 p v).sp = s.sp := rfl
@[simp] theorem State.write8_pc (s : State) (p : Addr) (v : Byte) : (s.write8 p v).pc = s.pc := rfl
@[simp] theorem State.write8_pg (s : State) (p : Addr) (v : Byte) : (s.write8 p v).pg = s.pg := rfl
@[simp] theorem State.write8_dt (s : State) (p : Addr) (v : Byte) : (s.write8 p v).dt = s.dt := rfl
@[simp] theorem State.write8_dpr (s : State) (p : Addr) (v : Byte) : (s.write8 p v).dpr = s.dpr := rfl
@[simp] theorem State.write8_ps (s : State) (p : Addr) (v : Byte) : (s.write8 p v).ps = s.ps := rfl
@[simp] theorem State.write8_mem (s : State) (p : Addr) (v : Byte) : (s.write8 p v).mem = storeByte s.plat s.mem p v := rfl
@[simp] theorem State.write8_run (s : State) (p : Addr) (v : Byte) : (s.write8 p v).run = s.run := rfl
@[simp] theorem State.write8_inReset (s : State) (p : Addr) (v : Byte) : (s.write8 p v).inReset = s.inReset := rfl
@[simp] theorem State.write8_inputs (s : State) (p : Addr) (v : Byte) : (s.write8 p v).inputs = s.inputs := rfl
@[simp] theorem State.write8_plat (s : State) (p : Addr) (v : Byte) : (s.write8 p v).plat = s.plat := rfl
@[simp] theorem State.write8_bus (s : State) (p : Addr) (v : Byte) : (s.write8 p v).bus = s.bus.afterWrite8 s.plat p v := rfl
@[simp] theorem State.write8_jumped (s : State) (p : Addr) (v : Byte) : (s.write8 p v).jumped = s.jumped := rfl
@[simp] theorem State.write8_stale (s : State) (p : Addr) (v : Byte) : (s.write8 p v).stale = s.stale := rfl

@[simp] theorem State.write16_a (s : State) (p : Addr) (v : Word) : (s.write16 p v).a = s.a := rfl
@[simp] theorem State.write16_b (s : State) (p : Addr) (v : Word) : (s.write16 p v).b = s.b := rfl
@[simp] theorem State.write16_x (s : State) (p : Addr) (v : Word) : (s.write16 p v).x = s.x := rfl
@[simp] theorem State.write16_y (s : State) (p : Addr) (v : Word) : (s.write16 p v).y = s.y := rfl
@[simp] theorem State.write16_sp (s : State) (p : Addr) (v : Word) : (s.write16 p v).sp = s.sp := rfl
@[simp] theorem State.write16_pc (s : State) (p : Addr) (v : Word) : (s.write16 p v).pc = s.pc := rfl
@[simp] theorem State.write16_pg (s : State) (p : Addr) (v : Word) : (s.write16 p v).pg = s.pg := rfl
@[simp] theorem State.write16_dt (s : State) (p : Addr) (v : Word) : (s.write16 p v).dt = s.dt := rfl
@[simp] theorem State.write16_dpr (s : State) (p : Addr) (v : Word) : (s.write16 p v).dpr = s.dpr := rfl
@[simp] theorem State.write16_ps (s : State) (p : Addr) (v : Word) : (s.write16 p v).ps = s.ps := rfl
@[simp] theorem State.write16_mem (s : State) (p : Addr) (v : Word) : (s.write16 p v).mem = storeByte s.plat (storeByte s.plat s.mem p (loByte v)) (p + 1#24) (hiByte v) := rfl
@[simp] theorem State.write16_run (s : State) (p : Addr) (v : Word) : (s.write16 p v).run = s.run := rfl
@[simp] theorem State.write16_inReset (s : State) (p : Addr) (v : Word) : (s.write16 p v).inReset = s.inReset := rfl
@[simp] theorem State.write16_inputs (s : State) (p : Addr) (v : Word) : (s.write16 p v).inputs = s.inputs := rfl
@[simp] theorem State.write16_plat (s : State) (p : Addr) (v : Word) : (s.write16 p v).plat = s.plat := rfl
@[simp] theorem State.write16_bus (s : State) (p : Addr) (v : Word) : (s.write16 p v).bus = s.bus.afterWrite16 s.plat p v := rfl
@[simp] theorem State.write16_jumped (s : State) (p : Addr) (v : Word) : (s.write16 p v).jumped = s.jumped := rfl
@[simp] theorem State.write16_stale (s : State) (p : Addr) (v : Word) : (s.write16 p v).stale = s.stale := rfl

@[simp] theorem State.writeW_a (s : State) (w : Width) (p : Addr) (v : Word) : (s.writeW w p v).a = s.a := by cases w <;> rfl
@[simp] theorem State.writeW_b (s : State) (w : Width) (p : Addr) (v : Word) : (s.writeW w p v).b = s.b := by cases w <;> rfl
@[simp] theorem State.writeW_x (s : State) (w : Width) (p : Addr) (v : Word) : (s.writeW w p v).x = s.x := by cases w <;> rfl
@[simp] theorem State.writeW_y (s : State) (w : Width) (p : Addr) (v : Word) : (s.writeW w p v).y = s.y := by cases w <;> rfl
@[simp] theorem State.writeW_sp (s : State) (w : Width) (p : Addr) (v : Word) : (s.writeW w p v).sp = s.sp := by cases w <;> rfl
@[simp] theorem State.writeW_pc (s : State) (w : Width) (p : Addr) (v : Word) : (s.writeW w p v).pc = s.pc := by cases w <;> rfl
@[simp] theorem State.writeW_pg (s : State) (w : Width) (p : Addr) (v : Word) : (s.writeW w p v).pg = s.pg := by cases w <;> rfl
@[simp] theorem State.writeW_dt (s : State) (w : Width) (p : Addr) (v : Word) : (s.writeW w p v).dt = s.dt := by cases w <;> rfl
@[simp] theorem State.writeW_dpr (s : State) (w : Width) (p : Addr) (v : Word) : (s.writeW w p v).dpr = s.dpr := by cases w <;> rfl
@[simp] theorem State.writeW_ps (s : State) (w : Width) (p : Addr) (v : Word) : (s.writeW w p v).ps = s.ps := by cases w <;> rfl
@[simp] theorem State.writeW_run (s : State) (w : Width) (p : Addr) (v : Word) : (s.writeW w p v).run = s.run := by cases w <;> rfl
@[simp] theorem State.writeW_inReset (s : State) (w : Width) (p : Addr) (v : Word) : (s.writeW w p v).inReset = s.inReset := by cases w <;> rfl
@[simp] theorem State.writeW_inputs (s : State) (w : Width) (p : Addr) (v : Word) : (s.writeW w p v).inputs = s.inputs := by cases w <;> rfl
@[simp] theorem State.writeW_plat (s : State) (w : Width) (p : Addr) (v : Word) : (s.writeW w p v).plat = s.plat := by cases w <;> rfl
@[simp] theorem State.writeW_jumped (s : State) (w : Width) (p : Addr) (v : Word) : (s.writeW w p v).jumped = s.jumped := by cases w <;> rfl
@[simp] theorem State.writeW_stale (s : State) (w : Width) (p : Addr) (v : Word) : (s.writeW w p v).stale = s.stale := by cases w <;> rfl

@[simp] theorem State.setAcc_x (s : State) (r : Acc) (w : Width) (v : Word) : (s.setAcc r w v).x = s.x := rfl
@[simp] theorem State.setAcc_y (s : State) (r : Acc) (w : Width) (v : Word) : (s.setAcc r w v).y = s.y := rfl
@[simp] theorem State.setAcc_sp (s : State) (r : Acc) (w : Width) (v : Word) : (s.setAcc r w v).sp = s.sp := rfl
@[simp] theorem State.setAcc_pc (s : State) (r : Acc) (w : Width) (v : Word) : (s.setAcc r w v).pc = s.pc := rfl
@[simp] theorem State.setAcc_pg (s : State) (r : Acc) (w : Width) (v : Word) : (s.setAcc r w v).pg = s.pg := rfl
@[simp] theorem State.setAcc_dt (s : State) (r : Acc) (w : Width) (v : Word) : (s.setAcc r w v).dt = s.dt := rfl
@[simp] theorem State.setAcc_dpr (s : State) (r : Acc) (w : Width) (v : Word) : (s.setAcc r w v).dpr = s.dpr := rfl
@[simp] theorem State.setAcc_ps (s : State) (r : Acc) (w : Width) (v : Word) : (s.setAcc r w v).ps = s.ps := rfl
@[simp] theorem State.setAcc_mem (s : State) (r : Acc) (w : Width) (v : Word) : (s.setAcc r w v).mem = s.mem := rfl
@[simp] theorem State.setAcc_run (s : State) (r : Acc) (w : Width) (v : Word) : (s.setAcc r w v).run = s.run := rfl
@[simp] theorem State.setAcc_inReset (s : State) (r : Acc) (w : Width) (v : Word) : (s.setAcc r w v).inReset = s.inReset := rfl
@[simp] theorem State.setAcc_inputs (s : State) (r : Acc) (w : Width) (v : Word) : (s.setAcc r w v).inputs = s.inputs := rfl
@[simp] theorem State.setAcc_plat (s : State) (r : Acc) (w : Width) (v : Word) : (s.setAcc r w v).plat = s.plat := rfl
@[simp] theorem State.setAcc_bus (s : State) (r : Acc) (w : Width) (v : Word) : (s.setAcc r w v).bus = s.bus := rfl
@[simp] theorem State.setAcc_jumped (s : State) (r : Acc) (w : Width) (v : Word) : (s.setAcc r w v).jumped = s.jumped := rfl
@[simp] theorem State.setAcc_stale (s : State) (r : Acc) (w : Width) (v : Word) : (s.setAcc r w v).stale = s.stale := rfl

@[simp] theorem State.setX_a (s : State) (v : Word) : (s.setX v).a = s.a := rfl
@[simp] theorem State.setX_b (s : State) (v : Word) : (s.setX v).b = s.b := rfl
@[simp] theorem State.setX_x (s : State) (v : Word) : (s.setX v).x = merge s.wx s.x v := rfl
@[simp] theorem State.setX_y (s : State) (v : Word) : (s.setX v).y = s.y := rfl
@[simp] theorem State.setX_sp (s : State) (v : Word) : (s.setX v).sp = s.sp := rfl
@[simp] theorem State.setX_pc (s : State) (v : Word) : (s.setX v).pc = s.pc := rfl
@[simp] theorem State.setX_pg (s : State) (v : Word) : (s.setX v).pg = s.pg := rfl
@[simp] theorem State.setX_dt (s : State) (v : Word) : (s.setX v).dt = s.dt := rfl
@[simp] theorem State.setX_dpr (s : State) (v : Word) : (s.setX v).dpr = s.dpr := rfl
@[simp] theorem State.setX_ps (s : State) (v : Word) : (s.setX v).ps = s.ps := rfl
@[simp] theorem State.setX_mem (s : State) (v : Word) : (s.setX v).mem = s.mem := rfl
@[simp] theorem State.setX_run (s : State) (v : Word) : (s.setX v).run = s.run := rfl
@[simp] theorem State.setX_inReset (s : State) (v : Word) : (s.setX v).inReset = s.inReset := rfl
@[simp] theorem State.setX_inputs (s : State) (v : Word) : (s.setX v).inputs = s.inputs := rfl
@[simp] theorem State.setX_plat (s : State) (v : Word) : (s.setX v).plat = s.plat := rfl
@[simp] theorem State.setX_bus (s : State) (v : Word) : (s.setX v).bus = s.bus := rfl
@[simp] theorem State.setX_jumped (s : State) (v : Word) : (s.setX v).jumped = s.jumped := rfl
@[simp] theorem State.setX_stale (s : State) (v : Word) : (s.setX v).stale = s.stale := rfl

@[simp] theorem State.setY_a (s : State) (v : Word) : (s.setY v).a = s.a := rfl
@[simp] theorem State.setY_b (s : State) (v : Word) : (s.setY v).b = s.b := rfl
@[simp] theorem State.setY_x (s : State) (v : Word) : (s.setY v).x = s.x := rfl
@[simp] theorem State.setY_y (s : State) (v : Word) : (s.setY v).y = merge s.wx s.y v := rfl
@[simp] theorem State.setY_sp (s : State) (v : Word) : (s.setY v).sp = s.sp := rfl
@[simp] theorem State.setY_pc (s : State) (v : Word) : (s.setY v).pc = s.pc := rfl
@[simp] theorem State.setY_pg (s : State) (v : Word) : (s.setY v).pg = s.pg := rfl
@[simp] theorem State.setY_dt (s : State) (v : Word) : (s.setY v).dt = s.dt := rfl
@[simp] theorem State.setY_dpr (s : State) (v : Word) : (s.setY v).dpr = s.dpr := rfl
@[simp] theorem State.setY_ps (s : State) (v : Word) : (s.setY v).ps = s.ps := rfl
@[simp] theorem State.setY_mem (s : State) (v : Word) : (s.setY v).mem = s.mem := rfl
@[simp] theorem State.setY_run (s : State) (v : Word) : (s.setY v).run = s.run := rfl
@[simp] theorem State.setY_inReset (s : State) (v : Word) : (s.setY v).inReset = s.inReset := rfl
@[simp] theorem State.setY_inputs (s : State) (v : Word) : (s.setY v).inputs = s.inputs := rfl
@[simp] theorem State.setY_plat (s : State) (v : Word) : (s.setY v).plat = s.plat := rfl
@[simp] theorem State.setY_bus (s : State) (v : Word) : (s.setY v).bus = s.bus := rfl
@[simp] theorem State.setY_jumped (s : State) (v : Word) : (s.setY v).jumped = s.jumped := rfl
@[simp] theorem State.setY_stale (s : State) (v : Word) : (s.setY v).stale = s.stale := rfl

@[simp] theorem State.setNZ_a (s : State) (w : Width) (v : Word) : (s.setNZ w v).a = s.a := rfl
@[simp] theorem State.setNZ_b (s : State) (w : Width) (v : Word) : (s.setNZ w v).b = s.b := rfl
@[simp] theorem State.setNZ_x (s : State) (w : Width) (v : Word) : (s.setNZ w v).x = s.x := rfl
@[simp] theorem State.setNZ_y (s : State) (w : Width) (v : Word) : (s.setNZ w v).y = s.y := rfl
@[simp] theorem State.setNZ_sp (s : State) (w : Width) (v : Word) : (s.setNZ w v).sp = s.sp := rfl
@[simp] theorem State.setNZ_pc (s : State) (w : Width) (v : Word) : (s.setNZ w v).pc = s.pc := rfl
@[simp] theorem State.setNZ_pg (s : State) (w : Width) (v : Word) : (s.setNZ w v).pg = s.pg := rfl
@[simp] theorem State.setNZ_dt (s : State) (w : Width) (v : Word) : (s.setNZ w v).dt = s.dt := rfl
@[simp] theorem State.setNZ_dpr (s : State) (w : Width) (v : Word) : (s.setNZ w v).dpr = s.dpr := rfl
@[simp] theorem State.setNZ_ps (s : State) (w : Width) (v : Word) : (s.setNZ w v).ps = s.ps.setNZ w v := rfl
@[simp] theorem State.setNZ_mem (s : State) (w : Width) (v : Word) : (s.setNZ w v).mem = s.mem := rfl
@[simp] theorem State.setNZ_run (s : State) (w : Width) (v : Word) : (s.setNZ w v).run = s.run := rfl
@[simp] theorem State.setNZ_inReset (s : State) (w : Width) (v : Word) : (s.setNZ w v).inReset = s.inReset := rfl
@[simp] theorem State.setNZ_inputs (s : State) (w : Width) (v : Word) : (s.setNZ w v).inputs = s.inputs := rfl
@[simp] theorem State.setNZ_plat (s : State) (w : Width) (v : Word) : (s.setNZ w v).plat = s.plat := rfl
@[simp] theorem State.setNZ_bus (s : State) (w : Width) (v : Word) : (s.setNZ w v).bus = s.bus := rfl
@[simp] theorem State.setNZ_jumped (s : State) (w : Width) (v : Word) : (s.setNZ w v).jumped = s.jumped := rfl
@[simp] theorem State.setNZ_stale (s : State) (w : Width) (v : Word) : (s.setNZ w v).stale = s.stale := rfl

@[simp] theorem State.setNext_a (s : State) (p : Addr) : (s.setNext p).a = s.a := rfl
@[simp] theorem State.setNext_b (s : State) (p : Addr) : (s.setNext p).b = s.b := rfl
@[simp] theorem State.setNext_x (s : State) (p : Addr) : (s.setNext p).x = s.x := rfl
@[simp] theorem State.setNext_y (s : State) (p : Addr) : (s.setNext p).y = s.y := rfl
@[simp] theorem State.setNext_sp (s : State) (p : Addr) : (s.setNext p).sp = s.sp := rfl
@[simp] theorem State.setNext_pc (s : State) (p : Addr) : (s.setNext p).pc = offsetOf p := rfl
@[simp] theorem State.setNext_pg (s : State) (p : Addr) : (s.setNext p).pg = bankOf p := rfl
@[simp] theorem State.setNext_dt (s : State) (p : Addr) : (s.setNext p).dt = s.dt := rfl
@[simp] theorem State.setNext_dpr (s : State) (p : Addr) : (s.setNext p).dpr = s.dpr := rfl
@[simp] theorem State.setNext_ps (s : State) (p : Addr) : (s.setNext p).ps = s.ps := rfl
@[simp] theorem State.setNext_mem (s : State) (p : Addr) : (s.setNext p).mem = s.mem := rfl
@[simp] theorem State.setNext_run (s : State) (p : Addr) : (s.setNext p).run = s.run := rfl
@[simp] theorem State.setNext_inReset (s : State) (p : Addr) : (s.setNext p).inReset = s.inReset := rfl
@[simp] theorem State.setNext_inputs (s : State) (p : Addr) : (s.setNext p).inputs = s.inputs := rfl
@[simp] theorem State.setNext_plat (s : State) (p : Addr) : (s.setNext p).plat = s.plat := rfl
@[simp] theorem State.setNext_bus (s : State) (p : Addr) : (s.setNext p).bus = s.bus := rfl
@[simp] theorem State.setNext_jumped (s : State) (p : Addr) : (s.setNext p).jumped = s.jumped := rfl
@[simp] theorem State.setNext_stale (s : State) (p : Addr) : (s.setNext p).stale = s.stale := rfl

@[simp] theorem State.jumpTo_a (s : State) (pg : Byte) (pc : Word) : (s.jumpTo pg pc).a = s.a := rfl
@[simp] theorem State.jumpTo_b (s : State) (pg : Byte) (pc : Word) : (s.jumpTo pg pc).b = s.b := rfl
@[simp] theorem State.jumpTo_x (s : State) (pg : Byte) (pc : Word) : (s.jumpTo pg pc).x = s.x := rfl
@[simp] theorem State.jumpTo_y (s : State) (pg : Byte) (pc : Word) : (s.jumpTo pg pc).y = s.y := rfl
@[simp] theorem State.jumpTo_sp (s : State) (pg : Byte) (pc : Word) : (s.jumpTo pg pc).sp = s.sp := rfl
@[simp] theorem State.jumpTo_pc (s : State) (pg : Byte) (pc : Word) : (s.jumpTo pg pc).pc = pc := rfl
@[simp] theorem State.jumpTo_pg (s : State) (pg : Byte) (pc : Word) : (s.jumpTo pg pc).pg = pg := rfl
@[simp] theorem State.jumpTo_dt (s : State) (pg : Byte) (pc : Word) : (s.jumpTo pg pc).dt = s.dt := rfl
@[simp] theorem State.jumpTo_dpr (s : State) (pg : Byte) (pc : Word) : (s.jumpTo pg pc).dpr = s.dpr := rfl
@[simp] theorem State.jumpTo_ps (s : State) (pg : Byte) (pc : Word) : (s.jumpTo pg pc).ps = s.ps := rfl
@[simp] theorem State.jumpTo_mem (s : State) (pg : Byte) (pc : Word) : (s.jumpTo pg pc).mem = s.mem := rfl
@[simp] theorem State.jumpTo_run (s : State) (pg : Byte) (pc : Word) : (s.jumpTo pg pc).run = s.run := rfl
@[simp] theorem State.jumpTo_inReset (s : State) (pg : Byte) (pc : Word) : (s.jumpTo pg pc).inReset = s.inReset := rfl
@[simp] theorem State.jumpTo_inputs (s : State) (pg : Byte) (pc : Word) : (s.jumpTo pg pc).inputs = s.inputs := rfl
@[simp] theorem State.jumpTo_plat (s : State) (pg : Byte) (pc : Word) : (s.jumpTo pg pc).plat = s.plat := rfl
@[simp] theorem State.jumpTo_bus (s : State) (pg : Byte) (pc : Word) : (s.jumpTo pg pc).bus = s.bus := rfl
@[simp] theorem State.jumpTo_jumped (s : State) (pg : Byte) (pc : Word) : (s.jumpTo pg pc).jumped = true := rfl
@[simp] theorem State.jumpTo_stale (s : State) (pg : Byte) (pc : Word) : (s.jumpTo pg pc).stale = s.stale := rfl

@[simp] theorem State.push8_a (s : State) (v : Byte) : (s.push8 v).a = s.a := rfl
@[simp] theorem State.push8_b (s : State) (v : Byte) : (s.push8 v).b = s.b := rfl
@[simp] theorem State.push8_x (s : State) (v : Byte) : (s.push8 v).x = s.x := rfl
@[simp] theorem State.push8_y (s : State) (v : Byte) : (s.push8 v).y = s.y := rfl
@[simp] theorem State.push8_sp (s : State) (v : Byte) : (s.push8 v).sp = s.sp - 1#16 := rfl
@[simp] theorem State.push8_pc (s : State) (v : Byte) : (s.push8 v).pc = s.pc := rfl
@[simp] theorem State.push8_pg (s : State) (v : Byte) : (s.push8 v).pg = s.pg := rfl
@[simp] theorem State.push8_dt (s : State) (v : Byte) : (s.push8 v).dt = s.dt := rfl
@[simp] theorem State.push8_dpr (s : State) (v : Byte) : (s.push8 v).dpr = s.dpr := rfl
@[simp] theorem State.push8_ps (s : State) (v : Byte) : (s.push8 v).ps = s.ps := rfl
@[simp] theorem State.push8_mem (s : State) (v : Byte) : (s.push8 v).mem = storeByte s.plat s.mem (stackAddr s.sp) v := rfl
@[simp] theorem State.push8_run (s : State) (v : Byte) : (s.push8 v).run = s.run := rfl
@[simp] theorem State.push8_inReset (s : State) (v : Byte) : (s.push8 v).inReset = s.inReset := rfl
@[simp] theorem State.push8_inputs (s : State) (v : Byte) : (s.push8 v).inputs = s.inputs := rfl
@[simp] theorem State.push8_plat (s : State) (v : Byte) : (s.push8 v).plat = s.plat := rfl
@[simp] theorem State.push8_bus (s : State) (v : Byte) : (s.push8 v).bus = s.bus.afterWrite8 s.plat (stackAddr s.sp) v := rfl
@[simp] theorem State.push8_jumped (s : State) (v : Byte) : (s.push8 v).jumped = s.jumped := rfl
@[simp] theorem State.push8_stale (s : State) (v : Byte) : (s.push8 v).stale = s.stale := rfl

@[simp] theorem State.push16_a (s : State) (v : Word) : (s.push16 v).a = s.a := rfl
@[simp] theorem State.push16_b (s : State) (v : Word) : (s.push16 v).b = s.b := rfl
@[simp] theorem State.push16_x (s : State) (v : Word) : (s.push16 v).x = s.x := rfl
@[simp] theorem State.push16_y (s : State) (v : Word) : (s.push16 v).y = s.y := rfl
@[simp] theorem State.push16_sp (s : State) (v : Word) : (s.push16 v).sp = s.sp - 1#16 - 1#16 := rfl
@[simp] theorem State.push16_pc (s : State) (v : Word) : (s.push16 v).pc = s.pc := rfl
@[simp] theorem State.push16_pg (s : State) (v : Word) : (s.push16 v).pg = s.pg := rfl
@[simp] theorem State.push16_dt (s : State) (v : Word) : (s.push16 v).dt = s.dt := rfl
@[simp] theorem State.push16_dpr (s : State) (v : Word) : (s.push16 v).dpr = s.dpr := rfl
@[simp] theorem State.push16_ps (s : State) (v : Word) : (s.push16 v).ps = s.ps := rfl
@[simp] theorem State.push16_run (s : State) (v : Word) : (s.push16 v).run = s.run := rfl
@[simp] theorem State.push16_inReset (s : State) (v : Word) : (s.push16 v).inReset = s.inReset := rfl
@[simp] theorem State.push16_inputs (s : State) (v : Word) : (s.push16 v).inputs = s.inputs := rfl
@[simp] theorem State.push16_plat (s : State) (v : Word) : (s.push16 v).plat = s.plat := rfl
@[simp] theorem State.push16_mem (s : State) (v : Word) : (s.push16 v).mem =
    storeByte s.plat (storeByte s.plat s.mem (stackAddr s.sp) (hiByte v)) (stackAddr (s.sp - 1#16)) (loByte v) := rfl
@[simp] theorem State.push16_bus (s : State) (v : Word) : (s.push16 v).bus = s.bus.afterPush16 s.plat s.sp v := rfl
@[simp] theorem State.push16_jumped (s : State) (v : Word) : (s.push16 v).jumped = s.jumped := rfl
@[simp] theorem State.push16_stale (s : State) (v : Word) : (s.push16 v).stale = s.stale := rfl

@[simp] theorem State.pushW_a (s : State) (w : Width) (v : Word) : (s.pushW w v).a = s.a := by cases w <;> rfl
@[simp] theorem State.pushW_b (s : State) (w : Width) (v : Word) : (s.pushW w v).b = s.b := by cases w <;> rfl
@[simp] theorem State.pushW_x (s : State) (w : Width) (v : Word) : (s.pushW w v).x = s.x := by cases w <;> rfl
@[simp] theorem State.pushW_y (s : State) (w : Width) (v : Word) : (s.pushW w v).y = s.y := by cases w <;> rfl
@[simp] theorem State.pushW_pc (s : State) (w : Width) (v : Word) : (s.pushW w v).pc = s.pc := by cases w <;> rfl
@[simp] theorem State.pushW_pg (s : State) (w : Width) (v : Word) : (s.pushW w v).pg = s.pg := by cases w <;> rfl
@[simp] theorem State.pushW_dt (s : State) (w : Width) (v : Word) : (s.pushW w v).dt = s.dt := by cases w <;> rfl
@[simp] theorem State.pushW_dpr (s : State) (w : Width) (v : Word) : (s.pushW w v).dpr = s.dpr := by cases w <;> rfl
@[simp] theorem State.pushW_ps (s : State) (w : Width) (v : Word) : (s.pushW w v).ps = s.ps := by cases w <;> rfl
@[simp] theorem State.pushW_run (s : State) (w : Width) (v : Word) : (s.pushW w v).run = s.run := by cases w <;> rfl
@[simp] theorem State.pushW_inReset (s : State) (w : Width) (v : Word) : (s.pushW w v).inReset = s.inReset := by cases w <;> rfl
@[simp] theorem State.pushW_inputs (s : State) (w : Width) (v : Word) : (s.pushW w v).inputs = s.inputs := by cases w <;> rfl
@[simp] theorem State.pushW_plat (s : State) (w : Width) (v : Word) : (s.pushW w v).plat = s.plat := by cases w <;> rfl
@[simp] theorem State.pushW_jumped (s : State) (w : Width) (v : Word) : (s.pushW w v).jumped = s.jumped := by cases w <;> rfl
@[simp] theorem State.pushW_stale (s : State) (w : Width) (v : Word) : (s.pushW w v).stale = s.stale := by cases w <;> rfl

@[simp] theorem State.drop8_a (s : State) : (s.drop8).a = s.a := rfl
@[simp] theorem State.drop8_b (s : State) : (s.drop8).b = s.b := rfl
@[simp] theorem State.drop8_x (s : State) : (s.drop8).x = s.x := rfl
@[simp] theorem State.drop8_y (s : State) : (s.drop8).y = s.y := rfl
@[simp] theorem State.drop8_sp (s : State) : (s.drop8).sp = s.sp + 1#16 := rfl
@[simp] theorem State.drop8_pc (s : State) : (s.drop8).pc = s.pc := rfl
@[simp] theorem State.drop8_pg (s : State) : (s.drop8).pg = s.pg := rfl
@[simp] theorem State.drop8_dt (s : State) : (s.drop8).dt = s.dt := rfl
@[simp] theorem State.drop8_dpr (s : State) : (s.drop8).dpr = s.dpr := rfl
@[simp] theorem State.drop8_ps (s : State) : (s.drop8).ps = s.ps := rfl
@[simp] theorem State.drop8_mem (s : State) : (s.drop8).mem = s.mem := rfl
@[simp] theorem State.drop8_run (s : State) : (s.drop8).run = s.run := rfl
@[simp] theorem State.drop8_inReset (s : State) : (s.drop8).inReset = s.inReset := rfl
@[simp] theorem State.drop8_inputs (s : State) : (s.drop8).inputs = s.inputs := rfl
@[simp] theorem State.drop8_plat (s : State) : (s.drop8).plat = s.plat := rfl
@[simp] theorem State.drop8_bus (s : State) : (s.drop8).bus = s.bus.afterRead8 s.plat (stackAddr (s.sp + 1#16)) := rfl
@[simp] theorem State.drop8_jumped (s : State) : (s.drop8).jumped = s.jumped := rfl
@[simp] theorem State.drop8_stale (s : State) : (s.drop8).stale = s.stale := rfl

@[simp] theorem State.drop16_a (s : State) : (s.drop16).a = s.a := rfl
@[simp] theorem State.drop16_b (s : State) : (s.drop16).b = s.b := rfl
@[simp] theorem State.drop16_x (s : State) : (s.drop16).x = s.x := rfl
@[simp] theorem State.drop16_y (s : State) : (s.drop16).y = s.y := rfl
@[simp] theorem State.drop16_sp (s : State) : (s.drop16).sp = s.sp + 1#16 + 1#16 := rfl
@[simp] theorem State.drop16_pc (s : State) : (s.drop16).pc = s.pc := rfl
@[simp] theorem State.drop16_pg (s : State) : (s.drop16).pg = s.pg := rfl
@[simp] theorem State.drop16_dt (s : State) : (s.drop16).dt = s.dt := rfl
@[simp] theorem State.drop16_dpr (s : State) : (s.drop16).dpr = s.dpr := rfl
@[simp] theorem State.drop16_ps (s : State) : (s.drop16).ps = s.ps := rfl
@[simp] theorem State.drop16_mem (s : State) : (s.drop16).mem = s.mem := rfl
@[simp] theorem State.drop16_run (s : State) : (s.drop16).run = s.run := rfl
@[simp] theorem State.drop16_inReset (s : State) : (s.drop16).inReset = s.inReset := rfl
@[simp] theorem State.drop16_inputs (s : State) : (s.drop16).inputs = s.inputs := rfl
@[simp] theorem State.drop16_plat (s : State) : (s.drop16).plat = s.plat := rfl
@[simp] theorem State.drop16_bus (s : State) : (s.drop16).bus = s.bus.afterPull16 s.plat s.sp := rfl
@[simp] theorem State.drop16_jumped (s : State) : (s.drop16).jumped = s.jumped := rfl
@[simp] theorem State.drop16_stale (s : State) : (s.drop16).stale = s.stale := rfl

@[simp] theorem State.dropW_a (s : State) (w : Width) : (s.dropW w).a = s.a := by cases w <;> rfl
@[simp] theorem State.dropW_b (s : State) (w : Width) : (s.dropW w).b = s.b := by cases w <;> rfl
@[simp] theorem State.dropW_x (s : State) (w : Width) : (s.dropW w).x = s.x := by cases w <;> rfl
@[simp] theorem State.dropW_y (s : State) (w : Width) : (s.dropW w).y = s.y := by cases w <;> rfl
@[simp] theorem State.dropW_pc (s : State) (w : Width) : (s.dropW w).pc = s.pc := by cases w <;> rfl
@[simp] theorem State.dropW_pg (s : State) (w : Width) : (s.dropW w).pg = s.pg := by cases w <;> rfl
@[simp] theorem State.dropW_dt (s : State) (w : Width) : (s.dropW w).dt = s.dt := by cases w <;> rfl
@[simp] theorem State.dropW_dpr (s : State) (w : Width) : (s.dropW w).dpr = s.dpr := by cases w <;> rfl
@[simp] theorem State.dropW_ps (s : State) (w : Width) : (s.dropW w).ps = s.ps := by cases w <;> rfl
@[simp] theorem State.dropW_mem (s : State) (w : Width) : (s.dropW w).mem = s.mem := by cases w <;> rfl
@[simp] theorem State.dropW_run (s : State) (w : Width) : (s.dropW w).run = s.run := by cases w <;> rfl
@[simp] theorem State.dropW_inReset (s : State) (w : Width) : (s.dropW w).inReset = s.inReset := by cases w <;> rfl
@[simp] theorem State.dropW_inputs (s : State) (w : Width) : (s.dropW w).inputs = s.inputs := by cases w <;> rfl
@[simp] theorem State.dropW_plat (s : State) (w : Width) : (s.dropW w).plat = s.plat := by cases w <;> rfl
@[simp] theorem State.dropW_jumped (s : State) (w : Width) : (s.dropW w).jumped = s.jumped := by cases w <;> rfl
@[simp] theorem State.dropW_stale (s : State) (w : Width) : (s.dropW w).stale = s.stale := by cases w <;> rfl

@[simp] theorem State.loadVector_a (s : State) (vec : Word) : (s.loadVector vec).a = s.a := rfl
@[simp] theorem State.loadVector_b (s : State) (vec : Word) : (s.loadVector vec).b = s.b := rfl
@[simp] theorem State.loadVector_x (s : State) (vec : Word) : (s.loadVector vec).x = s.x := rfl
@[simp] theorem State.loadVector_y (s : State) (vec : Word) : (s.loadVector vec).y = s.y := rfl
@[simp] theorem State.loadVector_sp (s : State) (vec : Word) : (s.loadVector vec).sp = s.sp := rfl
@[simp] theorem State.loadVector_pc (s : State) (vec : Word) : (s.loadVector vec).pc = s.read16 (vectorAddr vec) := rfl
@[simp] theorem State.loadVector_pg (s : State) (vec : Word) : (s.loadVector vec).pg = s.pg := rfl
@[simp] theorem State.loadVector_dt (s : State) (vec : Word) : (s.loadVector vec).dt = s.dt := rfl
@[simp] theorem State.loadVector_dpr (s : State) (vec : Word) : (s.loadVector vec).dpr = s.dpr := rfl
@[simp] theorem State.loadVector_ps (s : State) (vec : Word) : (s.loadVector vec).ps = s.ps := rfl
@[simp] theorem State.loadVector_mem (s : State) (vec : Word) : (s.loadVector vec).mem = s.mem := rfl
@[simp] theorem State.loadVector_run (s : State) (vec : Word) : (s.loadVector vec).run = s.run := rfl
@[simp] theorem State.loadVector_inReset (s : State) (vec : Word) : (s.loadVector vec).inReset = s.inReset := rfl
@[simp] theorem State.loadVector_inputs (s : State) (vec : Word) : (s.loadVector vec).inputs = s.inputs := rfl
@[simp] theorem State.loadVector_plat (s : State) (vec : Word) : (s.loadVector vec).plat = s.plat := rfl
@[simp] theorem State.loadVector_bus (s : State) (vec : Word) : (s.loadVector vec).bus = s.bus.afterRead16 s.plat (vectorAddr vec) := rfl
@[simp] theorem State.loadVector_jumped (s : State) (vec : Word) : (s.loadVector vec).jumped = s.jumped := rfl
@[simp] theorem State.loadVector_stale (s : State) (vec : Word) : (s.loadVector vec).stale = s.stale := rfl

@[simp] theorem State.settle_a (s : State) (t : State) : (s.settle t).a = t.a := rfl
@[simp] theorem State.settle_b (s : State) (t : State) : (s.settle t).b = t.b := rfl
@[simp] theorem State.settle_x (s : State) (t : State) : (s.settle t).x = t.x := rfl
@[simp] theorem State.settle_y (s : State) (t : State) : (s.settle t).y = t.y := rfl
@[simp] theorem State.settle_sp (s : State) (t : State) : (s.settle t).sp = t.sp := rfl
@[simp] theorem State.settle_pc (s : State) (t : State) : (s.settle t).pc = t.pc := rfl
@[simp] theorem State.settle_pg (s : State) (t : State) : (s.settle t).pg = t.pg := rfl
@[simp] theorem State.settle_dt (s : State) (t : State) : (s.settle t).dt = t.dt := rfl
@[simp] theorem State.settle_dpr (s : State) (t : State) : (s.settle t).dpr = t.dpr := rfl
@[simp] theorem State.settle_ps (s : State) (t : State) : (s.settle t).ps = t.ps := rfl
@[simp] theorem State.settle_mem (s : State) (t : State) : (s.settle t).mem = t.mem := rfl
@[simp] theorem State.settle_run (s : State) (t : State) : (s.settle t).run = t.run := rfl
@[simp] theorem State.settle_inReset (s : State) (t : State) : (s.settle t).inReset = t.inReset := rfl
@[simp] theorem State.settle_inputs (s : State) (t : State) : (s.settle t).inputs = t.inputs := rfl
@[simp] theorem State.settle_plat (s : State) (t : State) : (s.settle t).plat = t.plat := rfl
@[simp] theorem State.settle_bus (s : State) (t : State) : (s.settle t).bus = t.bus := rfl
@[simp] theorem State.settle_jumped (s : State) (t : State) : (s.settle t).jumped = t.jumped := rfl

@[simp] theorem State.setAcc_a_a (s : State) (w : Width) (v : Word) : (s.setAcc .a w v).a = merge w s.a v := rfl
@[simp] theorem State.setAcc_a_b (s : State) (w : Width) (v : Word) : (s.setAcc .a w v).b = s.b := rfl
@[simp] theorem State.setAcc_b_a (s : State) (w : Width) (v : Word) : (s.setAcc .b w v).a = s.a := rfl
@[simp] theorem State.setAcc_b_b (s : State) (w : Width) (v : Word) : (s.setAcc .b w v).b = merge w s.b v := rfl
@[simp] theorem State.acc_a (s : State) : s.acc .a = s.a := rfl
@[simp] theorem State.acc_b (s : State) : s.acc .b = s.b := rfl

@[simp] theorem PS.setNZ_c (p : PS) (w : Width) (v : Word) : (p.setNZ w v).c = p.c := rfl
@[simp] theorem PS.setNZ_i (p : PS) (w : Width) (v : Word) : (p.setNZ w v).i = p.i := rfl
@[simp] theorem PS.setNZ_d (p : PS) (w : Width) (v : Word) : (p.setNZ w v).d = p.d := rfl
@[simp] theorem PS.setNZ_x (p : PS) (w : Width) (v : Word) : (p.setNZ w v).x = p.x := rfl
@[simp] theorem PS.setNZ_m (p : PS) (w : Width) (v : Word) : (p.setNZ w v).m = p.m := rfl
@[simp] theorem PS.setNZ_v (p : PS) (w : Width) (v : Word) : (p.setNZ w v).v = p.v := rfl
@[simp] theorem PS.setNZ_ipl (p : PS) (w : Width) (v : Word) : (p.setNZ w v).ipl = p.ipl := rfl

/-- A read of memory depends on memory and the platform only. -/
theorem State.read8_congr {s t : State} {a : Addr} (hm : t.mem = s.mem) (hp : t.plat = s.plat)
    (ha : hasMemory s.plat a = true) : t.read8 a = s.read8 a := by
  simp only [hasMemory] at ha
  simp only [State.read8, hm, hp]
  split at ha <;> simp_all

/-- Memory reads alike where memory and the platform are alike. -/
theorem SameBytes.of_mem {s t : State} (hm : t.mem = s.mem) (hp : t.plat = s.plat) : SameBytes s t :=
  fun _ ha => State.read8_congr hm hp ha

end Sys2Proof.Machine
end

