-- ==== Sys2Proof/Laws/Memory.lean ====
section
/-! SUPPORT. The laws of memory: a read after a write, the canonical form, and what a store of one byte leaves, as
`readAfter` says it. -/

namespace Sys2Proof.Machine

theorem Memory.wfFrom_mono {lo lo' : Nat} {mem : List Host.Cell} (h : Memory.wfFrom lo mem = true) (hl : lo' ≤ lo) :
    Memory.wfFrom lo' mem = true := by
  cases mem with
  | nil => rfl
  | cons c rest =>
    obtain ⟨k, v⟩ := c
    simp only [Memory.wfFrom, Bool.and_eq_true, decide_eq_true_eq] at h ⊢
    exact ⟨⟨⟨by omega, h.1.1.2⟩, h.1.2⟩, h.2⟩

/-- An address below every listed one reads as an unlisted byte. -/
theorem Memory.read_of_lt {lo a : Nat} {mem : List Host.Cell} (h : Memory.wfFrom lo mem = true) (ha : a < lo) :
    Memory.read mem a = unlistedByte := by
  induction mem generalizing lo with
  | nil => rfl
  | cons c rest ih =>
    obtain ⟨k, v⟩ := c
    simp only [Memory.wfFrom, Bool.and_eq_true, decide_eq_true_eq] at h
    simp only [Memory.read]
    rw [if_neg (by omega)]
    exact ih h.2 (by omega)

/-- A write keeps the canonical form. -/
theorem Memory.wfFrom_write {lo a : Nat} {mem : List Host.Cell} (b : Byte) (h : Memory.wfFrom lo mem = true)
    (hlo : lo ≤ a) (ha : a < 2 ^ 24) : Memory.wfFrom lo (Memory.write mem a b) = true := by
  induction mem generalizing lo with
  | nil =>
    simp only [Memory.write]
    split <;> simp_all [Memory.wfFrom]
  | cons c rest ih =>
    obtain ⟨k, v⟩ := c
    simp only [Memory.wfFrom, Bool.and_eq_true, decide_eq_true_eq] at h
    obtain ⟨⟨⟨h1, h2⟩, h3⟩, h4⟩ := h
    simp only [Memory.write]
    split
    · split
      · simp only [Memory.wfFrom, Bool.and_eq_true, decide_eq_true_eq]; exact ⟨⟨⟨h1, h2⟩, h3⟩, h4⟩
      · simp only [Memory.wfFrom, Bool.and_eq_true, decide_eq_true_eq]
        exact ⟨⟨⟨hlo, ha⟩, by assumption⟩, ⟨⟨by omega, h2⟩, h3⟩, h4⟩
    · split
      · split
        · exact Memory.wfFrom_mono h4 (by omega)
        · subst a
          simp only [Memory.wfFrom, Bool.and_eq_true, decide_eq_true_eq]; exact ⟨⟨⟨hlo, ha⟩, by assumption⟩, h4⟩
      · simp only [Memory.wfFrom, Bool.and_eq_true, decide_eq_true_eq]
        exact ⟨⟨⟨h1, h2⟩, h3⟩, ih h4 (by omega)⟩

/-- Reading what was written. -/
theorem Memory.read_write_same {lo a : Nat} {mem : List Host.Cell} (b : Byte) (h : Memory.wfFrom lo mem = true) :
    Memory.read (Memory.write mem a b) a = b := by
  induction mem generalizing lo with
  | nil => simp only [Memory.write]; split <;> simp_all [Memory.read]
  | cons c rest ih =>
    obtain ⟨k, v⟩ := c
    simp only [Memory.wfFrom, Bool.and_eq_true, decide_eq_true_eq] at h
    simp only [Memory.write]
    split
    · split
      · subst b
        simp only [Memory.read]
        rw [if_neg (by omega)]
        exact Memory.read_of_lt h.2 (by omega)
      · simp [Memory.read]
    · split
      · split
        · subst b; exact Memory.read_of_lt h.2 (by omega)
        · simp [Memory.read]
      · simp only [Memory.read]
        rw [if_neg (by omega)]
        exact ih h.2

/-- Reading anywhere else. -/
theorem Memory.read_write_other {a c : Nat} (mem : List Host.Cell) (b : Byte) (hc : c ≠ a) :
    Memory.read (Memory.write mem a b) c = Memory.read mem c := by
  induction mem with
  | nil => simp only [Memory.write]; split <;> simp [Memory.read, Ne.symm hc]
  | cons e rest ih =>
    obtain ⟨k, v⟩ := e
    simp only [Memory.write]
    split
    · split <;> simp [Memory.read, Ne.symm hc]
    · split
      · split
        · subst a; simp [Memory.read, Ne.symm hc]
        · subst a; simp [Memory.read, Ne.symm hc]
      · simp only [Memory.read]; split <;> simp_all

/-- Only RAM keeps a store. -/
theorem storeByte_of_not_ram {p : Platform} {a : Addr} (mem : List Host.Cell) (v : Byte) (h : regionKind p a ≠ .ram) :
    storeByte p mem a v = mem := by
  simp only [storeByte]
  split <;> first | rfl | contradiction

theorem storeByte_of_ram {p : Platform} {a : Addr} (mem : List Host.Cell) (v : Byte) (h : regionKind p a = .ram) :
    storeByte p mem a v = Memory.write mem a.toNat v := by simp only [storeByte, h]

/-- The canonical form survives a store. -/
theorem storeByte_wf (p : Platform) {mem : List Host.Cell} (a : Addr) (v : Byte) (h : Memory.wf mem = true) :
    Memory.wf (storeByte p mem a v) = true := by
  by_cases hr : regionKind p a = .ram
  · rw [storeByte_of_ram mem v hr]; exact Memory.wfFrom_write v h (Nat.zero_le _) a.isLt
  · rw [storeByte_of_not_ram mem v hr]; exact h

/-- What one store leaves in a list of bytes. -/
theorem read_storeByte (p : Platform) {mem : List Host.Cell} (a b : Addr) (v : Byte) (h : Memory.wf mem = true) :
    Memory.read (storeByte p mem a v) b.toNat =
      if a = b ∧ regionKind p b = .ram then v else Memory.read mem b.toNat := by
  by_cases hr : regionKind p a = .ram
  · rw [storeByte_of_ram mem v hr]
    by_cases hab : a = b
    · subst hab; rw [if_pos ⟨rfl, hr⟩]; exact Memory.read_write_same v h
    · rw [if_neg fun e => hab e.1]
      exact Memory.read_write_other _ v fun e => hab (BitVec.eq_of_toNat_eq e.symm)
  · rw [storeByte_of_not_ram mem v hr, if_neg]
    rintro ⟨rfl, hb⟩; exact hr hb

/-- A read where there is memory. -/
theorem State.read8_of_memory {s : State} {b : Addr} (hb : hasMemory s.plat b = true) :
    s.read8 b = Memory.read s.mem b.toNat := by
  simp only [hasMemory] at hb
  simp only [State.read8]
  split at hb <;> simp_all

theorem hasMemory_of_ram {p : Platform} {a : Addr} (h : regionKind p a = .ram) : hasMemory p a = true := by
  simp [hasMemory, h]

/-- What one store leaves. -/
theorem State.read8_write8 (s : State) (a : Addr) (v : Byte) (b : Addr) (h : s.MemOk) (hb : hasMemory s.plat b = true) :
    (s.write8 a v).read8 b = if a = b ∧ regionKind s.plat b = .ram then v else s.read8 b := by
  rw [State.read8_of_memory (s := s.write8 a v) hb, State.read8_of_memory hb]
  exact read_storeByte s.plat a b v h

theorem State.write8_memOk {s : State} (a : Addr) (v : Byte) (h : s.MemOk) : (s.write8 a v).MemOk :=
  storeByte_wf s.plat a v h

/-- What a store of a word leaves. -/
theorem State.read8_write16 (s : State) (a : Addr) (v : Word) (b : Addr) (h : s.MemOk) (hb : hasMemory s.plat b = true) :
    (s.write16 a v).read8 b =
      if a + 1#24 = b ∧ regionKind s.plat b = .ram then hiByte v
      else if a = b ∧ regionKind s.plat b = .ram then loByte v else s.read8 b := by
  rw [State.read8_of_memory (s := s.write16 a v) hb, State.read8_of_memory hb, State.write16_mem,
    read_storeByte s.plat _ b _ (storeByte_wf s.plat a _ h), read_storeByte s.plat a b _ h]

theorem State.write16_memOk {s : State} (a : Addr) (v : Word) (h : s.MemOk) : (s.write16 a v).MemOk :=
  storeByte_wf s.plat _ _ (storeByte_wf s.plat a _ h)

/-! ## The bus where there is only memory -/

/-- A read of memory leaves the bus as it was (R77). -/
theorem Bus.afterRead8_of_memory (bus : Bus) {p : Platform} {a : Addr} (h : hasMemory p a = true) :
    bus.afterRead8 p a = bus := by
  simp only [hasMemory] at h
  simp only [Bus.afterRead8]
  split at h <;> simp_all

theorem wordDevice_of_memory {p : Platform} {a : Addr} (h : hasMemory p a = true) : wordDevice p a = none := by
  simp only [hasMemory] at h
  simp only [wordDevice]
  split at h <;> simp_all

/-- The second byte of a word that a device takes in one access is no memory either. -/
theorem wordDevice_of_memory_succ {p : Platform} {a : Addr} (h : hasMemory p (a + 1#24) = true) :
    wordDevice p a = none := by
  simp only [hasMemory] at h
  simp only [wordDevice]
  split
  · rfl
  · rfl
  · rename_i id words hk
    split
    · rename_i hc
      simp only [Bool.and_eq_true, decide_eq_true_eq] at hc
      rw [hc.2] at h; simp at h
    · rfl
  · rfl

theorem Bus.afterRead16_of_memory (bus : Bus) {p : Platform} {a : Addr} (h : hasMemory p a = true)
    (h1 : hasMemory p (a + 1#24) = true) : bus.afterRead16 p a = bus := by
  simp only [Bus.afterRead16, wordDevice_of_memory h, Bus.afterRead8_of_memory _ h, Bus.afterRead8_of_memory _ h1]

theorem Bus.afterWrite8_of_ram (bus : Bus) {p : Platform} {a : Addr} (v : Byte) (h : regionKind p a = .ram) :
    bus.afterWrite8 p a v = bus := by simp only [Bus.afterWrite8, h]

/-- A read writes to no device. -/
@[simp] theorem Bus.afterRead8_written (bus : Bus) (p : Platform) (a : Addr) :
    (bus.afterRead8 p a).written = bus.written := by
  simp only [Bus.afterRead8]; split <;> rfl

@[simp] theorem Bus.afterRead16_written (bus : Bus) (p : Platform) (a : Addr) :
    (bus.afterRead16 p a).written = bus.written := by
  simp only [Bus.afterRead16]; split <;> simp

theorem State.after8_of_memory {s : State} {a : Addr} (h : hasMemory s.plat a = true) : s.after8 a = s := by
  simp only [State.after8, Bus.afterRead8_of_memory _ h]

theorem State.after16_of_memory {s : State} {a : Addr} (h : hasMemory s.plat a = true)
    (h1 : hasMemory s.plat (a + 1#24) = true) : s.after16 a = s := by
  simp only [State.after16, Bus.afterRead16_of_memory _ h h1]

theorem MemoryOnly.hasMemory {p : Platform} (h : MemoryOnly p) (a : Addr) : hasMemory p a = true := by
  rcases h a with h | h <;> simp [Machine.hasMemory, h]

theorem Bus.afterWrite8_of_memoryOnly (bus : Bus) {p : Platform} (h : MemoryOnly p) (a : Addr) (v : Byte) :
    bus.afterWrite8 p a v = bus := by
  rcases h a with h | h <;> simp [Bus.afterWrite8, h, Bus.deny]

theorem Bus.afterWrite16_of_memoryOnly (bus : Bus) {p : Platform} (h : MemoryOnly p) (a : Addr) (v : Word) :
    bus.afterWrite16 p a v = bus := by
  simp only [Bus.afterWrite16, wordDevice_of_memory (MemoryOnly.hasMemory h a), Bus.afterWrite8_of_memoryOnly _ h]

theorem Bus.afterRead8_of_memoryOnly (bus : Bus) {p : Platform} (h : MemoryOnly p) (a : Addr) :
    bus.afterRead8 p a = bus := bus.afterRead8_of_memory (MemoryOnly.hasMemory h a)

theorem Bus.afterRead16_of_memoryOnly (bus : Bus) {p : Platform} (h : MemoryOnly p) (a : Addr) :
    bus.afterRead16 p a = bus :=
  bus.afterRead16_of_memory (MemoryOnly.hasMemory h a) (MemoryOnly.hasMemory h _)

end Sys2Proof.Machine
end

