-- ==== Sys2Proof/Laws/Ops.lean ====
section
/-! SUPPORT. What each shared operation does, once: reads and writes, pushes and pulls, partial writes of registers, operands,
entry and return, in the terms of Safety.lean. -/

namespace Sys2Proof.Machine

/-! ## Reads -/

theorem addrOfNat_toNat (a : Addr) : addrOfNat a.toNat = a := by simp [addrOfNat]

theorem addr_add (a : Addr) (k : Nat) : a + BitVec.ofNat 24 k = addrOfNat (a.toNat + k) := by
  apply BitVec.eq_of_toNat_eq; simp [addrOfNat]

theorem addr_succ (a : Addr) : a + 1#24 = addrOfNat (a.toNat + 1) := addr_add a 1

theorem State.read16_toNat (s : State) (a : Addr) : (s.read16 a).toNat = s.wordAt a.toNat := by
  simp only [State.wordAt, addrOfNat_toNat]

theorem State.read24_toNat (s : State) (a : Addr) : (s.read24 a).toNat = s.longAt a.toNat := by
  simp only [State.longAt, addrOfNat_toNat]

theorem State.wordAt_lt (s : State) (n : Nat) : s.wordAt n < 65536 := (s.read16 _).isLt

theorem append_three_toNat (h m l : Byte) : (h ++ (m ++ l) : Addr).toNat = h.toNat * 65536 + (m.toNat * 256 + l.toNat) := by
  rw [← append_byte_toNat m l]; exact append_addr_toNat h (m ++ l)

/-- A word read by two accesses of a byte: every word but an aligned one of a device (R65). -/
theorem State.read16_split {s : State} {a : Addr} (h : wordDevice s.plat a = none) :
    s.read16 a = (s.after8 a).read8 (a + 1#24) ++ s.read8 a := by simp only [State.read16, h]

theorem State.after16_split {s : State} {a : Addr} (h : wordDevice s.plat a = none) :
    s.after16 a = (s.after8 a).after8 (a + 1#24) := by
  simp only [State.after16, Bus.afterRead16, h, State.after8]

theorem State.write16_split {s : State} {a : Addr} (v : Word) (h : wordDevice s.plat a = none) :
    s.write16 a v = (s.write8 a (loByte v)).write8 (a + 1#24) (hiByte v) := by
  simp only [State.write16, Bus.afterWrite16, h, State.write8]

/-- The low byte of a word, where memory is. -/
theorem loByte_read16 (s : State) {a : Addr} (h : hasMemory s.plat a = true) : loByte (s.read16 a) = s.read8 a := by
  apply BitVec.eq_of_toNat_eq
  have := (s.read8 a).isLt
  simp only [State.read16_split (wordDevice_of_memory h), loByte_toNat, append_byte_toNat]; omega

/-- The high byte of a word, where memory is. -/
theorem hiByte_read16 (s : State) {a : Addr} (h : hasMemory s.plat (a + 1#24) = true) :
    hiByte (s.read16 a) = s.read8 (a + 1#24) := by
  apply BitVec.eq_of_toNat_eq
  have := (s.read8 a).isLt
  have e : (s.after8 a).read8 (a + 1#24) = s.read8 (a + 1#24) := State.read8_congr rfl rfl h
  simp only [State.read16_split (wordDevice_of_memory_succ h), hiByte_toNat, append_byte_toNat, e]; omega

/-- A memory operand. -/
theorem State.readW_toNat (s : State) (w : Width) (a : Addr) : (s.readW w a).toNat = s.memNat w a := rfl

theorem State.memNat_lt (s : State) (w : Width) (a : Addr) : s.memNat w a < 2 ^ w.bits := by
  cases w
  · simpa [State.memNat, State.readW, Width.bits] using (s.read8 a).isLt
  · exact (s.read16 a).isLt

/-! ## Reads leave everything but the bus -/

theorem State.afterW_eq (s : State) (w : Width) (a : Addr) : s.afterW w a = { s with bus := (s.afterW w a).bus } := by
  cases w <;> rfl

theorem State.afterEa_eq (s : State) (md : Mode) : s.afterEa md = { s with bus := (s.afterEa md).bus } := by
  cases md <;> rfl

theorem State.afterMem_eq (s : State) (w : Width) (md : Mode) : s.afterMem w md = { s with bus := (s.afterMem w md).bus } := by
  rw [State.afterMem, State.afterW_eq, State.afterEa_eq]

theorem State.afterOperand_eq (s : State) (w : Width) (src : Src) :
    s.afterOperand w src = { s with bus := (s.afterOperand w src).bus } := by
  cases src with
  | imm i => rfl
  | mem md => exact s.afterMem_eq w md

theorem State.afterTarget_eq (s : State) (t : Target) : s.afterTarget t = { s with bus := (s.afterTarget t).bus } := by
  cases t <;> rfl

theorem State.afterBytes_eq (s : State) (a : Addr) (n : Nat) :
    s.afterBytes a n = { s with bus := (s.afterBytes a n).bus } := by
  induction n generalizing s a with
  | zero => rfl
  | succ n ih => rw [State.afterBytes, ih]; rfl

/-- Fetching writes to no device. -/
theorem State.afterBytes_written (s : State) (a : Addr) (n : Nat) : (s.afterBytes a n).bus.written = s.bus.written := by
  induction n generalizing s a with
  | zero => rfl
  | succ n ih => rw [State.afterBytes, ih, State.after8_bus, Bus.afterRead8_written]

theorem immValue_toNat (w : Width) (i : Imm) : (immValue w i).toNat = Imm.nat w i := by
  cases i <;> simp [immValue, Imm.nat, lowNat]

theorem Imm.nat_lt (w : Width) (i : Imm) : Imm.nat w i < 2 ^ w.bits := by
  cases i with
  | byte v => have := v.isLt; cases w <;> simp only [Imm.nat, Width.bits] <;> omega
  | word v => exact Nat.mod_lt _ (Nat.two_pow_pos _)

/-- A source operand (R160). -/
theorem State.operand_toNat (s : State) (w : Width) (src : Src) : (s.operand w src).toNat = s.operandNat w src := by
  cases src with
  | imm i => exact immValue_toNat w i
  | mem md => rfl

theorem State.operandNat_lt (s : State) (w : Width) (src : Src) : s.operandNat w src < 2 ^ w.bits := by
  cases src with
  | imm i => exact Imm.nat_lt w i
  | mem md => exact (s.afterEa md).memNat_lt w (s.ea md)

/-- An operand that is changed in place (R287). -/
theorem State.readDst_toNat (s : State) (w : Width) (dst : Dst) : (s.readDst w dst).toNat = s.dstNat w dst := by
  cases dst with
  | acc r => simp [State.readDst, State.accW, State.dstNat]
  | mem md => rfl

theorem State.dstNat_lt (s : State) (w : Width) (dst : Dst) : s.dstNat w dst < 2 ^ w.bits := by
  cases dst with
  | acc r => exact lowNat_lt w _
  | mem md => exact (s.afterEa md).memNat_lt w (s.ea md)

theorem State.indexX_toNat (s : State) : s.indexX.toNat = s.xNat := by
  have := s.x.isLt
  cases h : s.ps.x <;> simp [State.indexX, State.wx, PS.wx, State.xNat, lowNat, h, Width.bits]; omega

theorem State.indexY_toNat (s : State) : s.indexY.toNat = s.yNat := by
  have := s.y.isLt
  cases h : s.ps.x <;> simp [State.indexY, State.wx, PS.wx, State.yNat, lowNat, h, Width.bits]; omega

theorem State.next_toNat (s : State) : s.next.toNat = s.pg.toNat * 65536 + s.pc.toNat := mkAddr_toNat _ _

/-! ## Writes -/

theorem readAfter_append {s t : State} (l m : List (Addr × Byte)) (b : Addr) (hp : t.plat = s.plat)
    (h : t.read8 b = readAfter s m b) : readAfter t l b = readAfter s (l ++ m) b := by
  induction l with
  | nil => exact h
  | cons c rest ih => simp only [readAfter, List.cons_append, hp, ih]

theorem byte_ofNat_toNat (v : Word) : BitVec.ofNat 8 v.toNat = loByte v := by
  apply BitVec.eq_of_toNat_eq; simp

theorem byte_ofNat_div (v : Word) : BitVec.ofNat 8 (v.toNat / 256) = hiByte v := by
  have := v.isLt
  apply BitVec.eq_of_toNat_eq; simp; omega

theorem storesOf_congr (w : Width) (a : Addr) {v v' : Nat} (h : v % 2 ^ w.bits = v' % 2 ^ w.bits) :
    storesOf w a v = storesOf w a v' := by
  have e8 : ∀ {p q : Nat}, p % 256 = q % 256 → BitVec.ofNat 8 p = BitVec.ofNat 8 q := fun h' =>
    BitVec.eq_of_toNat_eq (by simpa using h')
  cases w <;> simp only [Width.bits, Nat.reducePow] at h
  · simp only [storesOf, e8 h]
  · simp only [storesOf, e8 (show v % 256 = v' % 256 by omega), e8 (show v / 256 % 256 = v' / 256 % 256 by omega)]

/-- A write of width `w` (R63). -/
theorem State.writeW_stores (s : State) (w : Width) (a : Addr) (v : Word) (h : s.MemOk) :
    Stores s (s.writeW w a v) w a v.toNat := by
  intro b hb
  cases w
  · simp only [State.writeW, storesOf, readAfter, State.read8_write8 s a (loByte v) b h hb, byte_ofNat_toNat]
  · simp only [State.writeW, storesOf, readAfter, byte_ofNat_toNat, byte_ofNat_div, State.read8_write16 s a v b h hb]

theorem State.writeW_memOk {s : State} (w : Width) (a : Addr) (v : Word) (h : s.MemOk) : (s.writeW w a v).MemOk := by
  cases w
  · exact s.write8_memOk a _ h
  · exact s.write16_memOk a _ h

theorem State.writeW_eq (s : State) (w : Width) (a : Addr) (v : Word) :
    s.writeW w a v = { s with mem := (s.writeW w a v).mem, bus := (s.writeW w a v).bus } := by cases w <;> rfl

/-- A write of width `w` depends on the low `w` bits of the value only. -/
theorem State.writeW_congr (s : State) (w : Width) (a : Addr) {v v' : Word} (h : v.toNat % 2 ^ w.bits = v'.toNat % 2 ^ w.bits) :
    s.writeW w a v = s.writeW w a v' := by
  cases w
  · have : loByte v = loByte v' := BitVec.eq_of_toNat_eq (by simpa [Width.bits] using h)
    simp only [State.writeW, this]
  · have := v.isLt; have := v'.isLt
    have : v = v' := BitVec.eq_of_toNat_eq (by simp only [Width.bits] at h; omega)
    rw [this]

theorem Stores.congr {s t t' : State} {w : Width} {a : Addr} {v v' : Nat} (h : Stores s t w a v)
    (e : v % 2 ^ w.bits = v' % 2 ^ w.bits) (hm : t'.mem = t.mem) (hp : t'.plat = t.plat) (hs : t.plat = s.plat) :
    Stores s t' w a v' := by
  intro b hb
  rw [State.read8_congr hm hp (by rw [hs]; exact hb), h b hb, storesOf_congr w a e]

/-- A store seen from a state that differs only in what memory does not show. -/
theorem Stores.of_mem {s s' t : State} {w : Width} {a : Addr} {v : Nat} (h : Stores s' t w a v) (hm : s'.mem = s.mem)
    (hp : s'.plat = s.plat) : Stores s t w a v := by
  intro b hb
  rw [h b (by rw [hp]; exact hb)]
  generalize storesOf w a v = l
  induction l with
  | nil => exact State.read8_congr hm hp hb
  | cons c rest ih => simp only [readAfter, hp, ih]

theorem State.storeMem_eq (s : State) (w : Width) (md : Mode) (v : Word) :
    s.storeMem w md v = { s with mem := (s.storeMem w md v).mem, bus := (s.storeMem w md v).bus } := by
  rw [State.storeMem, State.writeW_eq, State.afterEa_eq]

/-- A memory operand written without being read. -/
theorem State.storeMem_stores (s : State) (w : Width) (md : Mode) (v : Word) (h : s.MemOk) :
    Stores s (s.storeMem w md v) w (s.ea md) v.toNat :=
  ((s.afterEa md).writeW_stores w _ v (by rw [State.afterEa_eq]; exact h)).of_mem (by simp) (by simp)

theorem State.updateMem_eq (s : State) (w : Width) (md : Mode) (v : Word) :
    s.updateMem w md v = { s with mem := (s.updateMem w md v).mem, bus := (s.updateMem w md v).bus } := by
  rw [State.updateMem, State.writeW_eq, State.afterMem_eq]

/-- A memory operand read and then written (R76). -/
theorem State.updateMem_stores (s : State) (w : Width) (md : Mode) (v : Word) (h : s.MemOk) :
    Stores s (s.updateMem w md v) w (s.ea md) v.toNat :=
  ((s.afterMem w md).writeW_stores w _ v (by rw [State.afterMem_eq]; exact h)).of_mem (by simp) (by simp)

theorem State.storeMem_memOk {s : State} (w : Width) (md : Mode) (v : Word) (h : s.MemOk) : (s.storeMem w md v).MemOk :=
  (s.afterEa md).writeW_memOk w _ v (by rw [State.afterEa_eq]; exact h)

theorem State.updateMem_memOk {s : State} (w : Width) (md : Mode) (v : Word) (h : s.MemOk) : (s.updateMem w md v).MemOk :=
  (s.afterMem w md).writeW_memOk w _ v (by rw [State.afterMem_eq]; exact h)

/-! ## Registers -/

theorem State.setAcc_low (s : State) (r : Acc) (w : Width) (v : Word) :
    LowBits w (s.acc r) ((s.setAcc r w v).acc r) v.toNat := by
  cases r <;> exact merge_lowBits w _ v

theorem State.setX_low (s : State) (v : Word) : LowBits s.wx s.x (s.setX v).x v.toNat := merge_lowBits _ _ v

theorem State.setY_low (s : State) (v : Word) : LowBits s.wx s.y (s.setY v).y v.toNat := merge_lowBits _ _ v

/-! ## The stack -/

theorem stackStores_append (sp : Word) (bytes : List Byte) (earlier : List (Addr × Byte)) :
    stackStores sp bytes earlier = stackStores sp bytes [] ++ earlier := by
  induction bytes generalizing sp earlier with
  | nil => rfl
  | cons v rest ih =>
    simp only [stackStores]
    rw [ih (sp - 1#16) (_ :: earlier), ih (sp - 1#16) [_], List.append_assoc]; rfl

theorem State.push8_eq_write8 (s : State) (v : Byte) :
    s.push8 v = { s.write8 (stackAddr s.sp) v with sp := s.sp - 1#16 } := rfl

theorem State.read8_push8 (s : State) (v : Byte) (b : Addr) (h : s.MemOk) (hb : hasMemory s.plat b = true) :
    (s.push8 v).read8 b = readAfter s [(stackAddr s.sp, v)] b := by
  rw [State.read8_congr (s := s.write8 (stackAddr s.sp) v) (t := s.push8 v) rfl rfl hb, State.read8_write8 s _ v b h hb]; rfl

theorem State.push8_memOk {s : State} (v : Byte) (h : s.MemOk) : (s.push8 v).MemOk := s.write8_memOk _ v h

theorem State.push16_memOk {s : State} (v : Word) (h : s.MemOk) : (s.push16 v).MemOk :=
  (s.push8 (hiByte v)).push8_memOk (loByte v) (s.push8_memOk (hiByte v) h)

theorem State.pushW_memOk {s : State} (w : Width) (v : Word) (h : s.MemOk) : (s.pushW w v).MemOk := by
  cases w
  · exact s.push8_memOk _ h
  · exact s.push16_memOk v h

theorem State.pushAll_memOk {s : State} (items : List (Width × Word)) (h : s.MemOk) : (s.pushAll items).MemOk := by
  induction items generalizing s with
  | nil => exact h
  | cons c rest ih => exact ih (s.pushW_memOk c.1 c.2 h)

theorem State.pushW_eq (s : State) (w : Width) (v : Word) :
    s.pushW w v = { s with sp := (s.pushW w v).sp, mem := (s.pushW w v).mem, bus := (s.pushW w v).bus } := by
  cases w <;> rfl

theorem State.pushAll_eq (s : State) (items : List (Width × Word)) :
    s.pushAll items = { s with sp := (s.pushAll items).sp, mem := (s.pushAll items).mem, bus := (s.pushAll items).bus } := by
  induction items generalizing s with
  | nil => rfl
  | cons c rest ih => simp only [State.pushAll]; rw [ih (s.pushW c.1 c.2)]; simp

theorem State.pushAll_append (s : State) (l m : List (Width × Word)) : s.pushAll (l ++ m) = (s.pushAll l).pushAll m := by
  induction l generalizing s with
  | nil => rfl
  | cons c rest ih => exact ih (s.pushW c.1 c.2)

/-- Pushes seen from, or up to, a state that differs only in what memory does not show. -/
theorem Pushes.of_mem {s s' t t' : State} {bytes : List Byte} (h : Pushes s' t bytes) (hsp : s'.sp = s.sp)
    (hm : s'.mem = s.mem) (hp : s'.plat = s.plat) (tsp : t'.sp = t.sp) (tm : t'.mem = t.mem) (tp : t'.plat = t.plat)
    (ht : t.plat = s.plat) : Pushes s t' bytes := by
  refine ⟨by rw [tsp, h.1, hsp], fun b hb => ?_⟩
  rw [State.read8_congr tm tp (by rw [ht]; exact hb), h.2 b (by rw [hp]; exact hb), hsp]
  generalize stackStores s.sp bytes [] = l
  induction l with
  | nil => exact State.read8_congr hm hp hb
  | cons c rest ih => simp only [readAfter, hp, ih]

theorem Pushes.append {s t u : State} {l m : List Byte} (h : Pushes s t l) (g : Pushes t u m) (hp : t.plat = s.plat) :
    Pushes s u (l ++ m) := by
  have stores : ∀ (sp : Word) (l m : List Byte),
      stackStores sp (l ++ m) [] = stackStores (sp - BitVec.ofNat 16 l.length) m [] ++ stackStores sp l [] := by
    intro sp l m
    induction l generalizing sp with
    | nil => simp [stackStores]
    | cons v rest ih =>
      have e : sp - 1#16 - BitVec.ofNat 16 rest.length = sp - BitVec.ofNat 16 (rest.length + 1) := by
        apply BitVec.eq_of_toNat_eq; simp; omega
      simp only [List.cons_append, stackStores, List.length_cons]
      rw [stackStores_append _ (rest ++ m), stackStores_append _ rest, ih, e, List.append_assoc]
  refine ⟨?_, fun b hb => ?_⟩
  · rw [g.1, h.1, List.length_append]; apply BitVec.eq_of_toNat_eq; simp; omega
  · rw [g.2 b (by rw [hp]; exact hb), stores, ← h.1]
    exact readAfter_append _ _ b hp (h.2 b hb)

theorem State.push8_pushes (s : State) (v : Byte) (h : s.MemOk) : Pushes s (s.push8 v) [v] :=
  ⟨rfl, fun b hb => s.read8_push8 v b h hb⟩

/-- A push of a word (R71). -/
theorem State.push16_pushes (s : State) (v : Word) (h : s.MemOk) : Pushes s (s.push16 v) (pushBytes .w16 v) := by
  simp only [pushBytes, byte_ofNat_toNat, byte_ofNat_div]
  exact ((s.push8_pushes (hiByte v) h).append ((s.push8 (hiByte v)).push8_pushes (loByte v) (s.push8_memOk _ h)) rfl).of_mem
    rfl rfl rfl rfl rfl rfl rfl

theorem State.pushW_pushes (s : State) (w : Width) (v : Word) (h : s.MemOk) : Pushes s (s.pushW w v) (pushBytes w v) := by
  cases w
  · simp only [pushBytes, byte_ofNat_toNat]; exact s.push8_pushes (loByte v) h
  · exact s.push16_pushes v h

/-- Pushes (R70, R71): S and every byte afterwards. -/
theorem State.pushAll_pushes (s : State) (items : List (Width × Word)) (h : s.MemOk) :
    Pushes s (s.pushAll items) (itemBytes items) := by
  induction items generalizing s with
  | nil => exact ⟨by simp [State.pushAll, itemBytes], fun b _ => rfl⟩
  | cons c rest ih =>
    exact (s.pushW_pushes c.1 c.2 h).append (ih _ (s.pushW_memOk c.1 c.2 h)) (State.pushW_plat s c.1 c.2)

/-- A push of a word that no device takes in one access: two bytes, the high one first (R71, R233). -/
theorem State.push16_split {s : State} (v : Word) (h : wordDevice s.plat (stackAddr (s.sp - 1#16)) = none) :
    s.push16 v = (s.push8 (hiByte v)).push8 (loByte v) := by
  simp only [State.push16, Bus.afterPush16, h]; rfl

/-- What an access of a word in one access needs (R65). -/
theorem wordDevice_some {p : Platform} {a : Addr} {id : Nat} (h : wordDevice p a = some id) :
    a.getLsbD 0 = false ∧ regionKind p a = .device id true ∧ regionKind p (a + 1#24) = .device id true := by
  simp only [wordDevice] at h
  split at h
  · cases h
  · cases h
  · rename_i k words hk
    split at h
    · rename_i hc
      simp only [Bool.and_eq_true, Bool.not_eq_true', decide_eq_true_eq] at hc
      obtain ⟨⟨rfl, he⟩, hn⟩ := hc
      cases h
      exact ⟨he, hk, hn⟩
    · cases h
  · cases h

/-- The stack addresses of an aligned word are neighbours (R69). -/
theorem stackAddr_succ {sp : Word} (h : (stackAddr sp).getLsbD 0 = false) : stackAddr sp + 1#24 = stackAddr (sp + 1#16) := by
  have e : sp.toNat % 2 = 0 := by
    have : (stackAddr sp).toNat = sp.toNat := by simp [stackAddr]
    simp only [BitVec.getLsbD, Nat.testBit_zero, this, decide_eq_false_iff_not] at h
    omega
  have := sp.isLt
  apply BitVec.eq_of_toNat_eq
  simp [stackAddr]; omega

/-- A push of a word that a device takes in one access (R233). -/
theorem State.push16_word {s : State} (v : Word) {id : Nat} (h : wordDevice s.plat (stackAddr (s.sp - 1#16)) = some id) :
    s.push16 v = { s.write16 (stackAddr (s.sp - 1#16)) v with sp := s.sp - 2#16 } := by
  obtain ⟨he, h0, h1⟩ := wordDevice_some h
  have es : s.sp - 1#16 + 1#16 = s.sp := by simp
  have ed : s.sp - 1#16 - 1#16 = s.sp - 2#16 := by apply BitVec.eq_of_toNat_eq; simp; omega
  have ne0 : regionKind s.plat (stackAddr (s.sp - 1#16)) ≠ .ram := by rw [h0]; exact fun e => by cases e
  have ne1 : regionKind s.plat (stackAddr (s.sp - 1#16) + 1#24) ≠ .ram := by rw [h1]; exact fun e => by cases e
  have ne2 : regionKind s.plat (stackAddr s.sp) ≠ .ram := by rw [← es, ← stackAddr_succ he]; exact ne1
  simp only [State.push16, State.push8, State.write8, State.write16, Bus.afterPush16, h, ed,
    storeByte_of_not_ram _ _ ne0, storeByte_of_not_ram _ _ ne1, storeByte_of_not_ram _ _ ne2]

@[simp] theorem loByte_ofByte (b : Byte) : loByte (ofByte b) = b := by
  apply BitVec.eq_of_toNat_eq; simpa using b.isLt

theorem State.pushFrame_eq (s : State) (ret : Addr) : s.pushFrame ret = s.pushAll (frameItems ret s.ps) := by
  simp only [State.pushFrame, frameItems, State.pushAll, State.pushW, loByte_ofByte]

theorem itemBytes_frameItems (ret : Addr) (ps : PS) : itemBytes (frameItems ret ps) = frameBytes ret ps := by
  simp only [frameItems, itemBytes, frameBytes, pushBytes, byte_ofNat_toNat, loByte_ofByte]; rfl

/-- A pull of a word that no device gives in one access: two bytes, the low one first (R73, R233). -/
theorem State.drop16_split {s : State} (h : wordDevice s.plat (stackAddr (s.sp + 1#16)) = none) :
    s.drop16 = s.drop8.drop8 ∧ s.top16 = s.drop8.top8 ++ s.top8 := by
  simp only [State.drop16, State.top16, Bus.afterPull16, h, and_true]; rfl

/-- A pull of a word that a device gives in one access (R233). -/
theorem State.drop16_word {s : State} {id : Nat} (h : wordDevice s.plat (stackAddr (s.sp + 1#16)) = some id) :
    s.drop16 = { s.after16 (stackAddr (s.sp + 1#16)) with sp := s.sp + 2#16 } ∧
      s.top16 = s.read16 (stackAddr (s.sp + 1#16)) := by
  have ed : s.sp + 1#16 + 1#16 = s.sp + 2#16 := by apply BitVec.eq_of_toNat_eq; simp
  simp only [State.drop16, State.drop8, State.after8, State.after16, State.top16, Bus.afterPull16, h, ed, and_true]

theorem State.afterPulls_append (s : State) (l m : List Width) : s.afterPulls (l ++ m) = (s.afterPulls l).afterPulls m := by
  induction l generalizing s with
  | nil => rfl
  | cons w rest ih => exact ih (s.dropW w)

theorem pullCount_append (l m : List Width) : pullCount (l ++ m) = pullCount l + pullCount m := by
  induction l with
  | nil => simp [pullCount]
  | cons w rest ih => simp only [List.cons_append, pullCount, ih]; omega

theorem State.dropW_sp (s : State) (w : Width) : (s.dropW w).sp = s.sp + BitVec.ofNat 16 (w.bits / 8) := by
  cases w
  · rfl
  · show s.sp + 1#16 + 1#16 = s.sp + 2#16
    apply BitVec.eq_of_toNat_eq; simp

/-- A pull leaves everything but S and the bus. -/
theorem State.dropW_record (s : State) (w : Width) :
    s.dropW w = { s with sp := s.sp + BitVec.ofNat 16 (w.bits / 8), bus := (s.afterPulls [w]).bus } := by
  rw [← State.dropW_sp]; cases w <;> rfl

theorem State.drop8_record (s : State) : s.drop8 = { s with sp := s.sp + 1#16, bus := (s.afterPulls [.w8]).bus } :=
  s.dropW_record .w8

theorem State.drop16_record (s : State) : s.drop16 = { s with sp := s.sp + 2#16, bus := (s.afterPulls [.w16]).bus } :=
  s.dropW_record .w16

theorem State.afterPulls_sp (s : State) (widths : List Width) :
    (s.afterPulls widths).sp = s.sp + BitVec.ofNat 16 (pullCount widths) := by
  induction widths generalizing s with
  | nil => simp [State.afterPulls, pullCount]
  | cons w rest ih =>
    rw [State.afterPulls, ih, State.dropW_sp, pullCount]
    apply BitVec.eq_of_toNat_eq; simp; omega

/-- Pulls leave everything but S and the bus. -/
theorem State.afterPulls_eq (s : State) (widths : List Width) : s.afterPulls widths =
    { s with sp := s.sp + BitVec.ofNat 16 (pullCount widths), bus := (s.afterPulls widths).bus } := by
  have h : s.afterPulls widths = { s with sp := (s.afterPulls widths).sp, bus := (s.afterPulls widths).bus } := by
    induction widths generalizing s with
    | nil => rfl
    | cons w rest ih => rw [State.afterPulls, ih (s.dropW w)]; simp
  rw [← State.afterPulls_sp]; exact h

/-- A pull of width `w` (R72, R73). -/
theorem State.topW_toNat (s : State) (w : Width) : (s.topW w).toNat = s.pulledNat [] w := rfl

theorem State.top8_toNat (s : State) : s.top8.toNat = s.pulledNat [] .w8 := by
  rw [← State.topW_toNat]; simp [State.topW]

theorem State.top16_toNat (s : State) : s.top16.toNat = s.pulledNat [] .w16 := rfl

theorem State.pulledNat_afterPulls (s : State) (l m : List Width) (w : Width) :
    (s.afterPulls l).pulledNat m w = s.pulledNat (l ++ m) w := by
  simp only [State.pulledNat, State.afterPulls_append]

/-- A pull depends on S, memory, the platform and the bus. -/
theorem State.topW_congr {s t : State} (w : Width) (hs : t.sp = s.sp) (hm : t.mem = s.mem) (hp : t.plat = s.plat)
    (hb : t.bus = s.bus) : t.topW w = s.topW w ∧ (t.dropW w).bus = (s.dropW w).bus := by
  cases w
  · simp only [State.topW, State.top8, State.read8, State.dropW, State.drop8_bus, hs, hm, hp, hb, and_self]
  · simp only [State.topW, State.top16, State.top8, State.read8, State.read16, State.after8, State.dropW, State.drop16_bus,
      State.drop8_sp, State.drop8_plat, State.drop8_mem, State.drop8_bus, hs, hm, hp, hb, and_self]

theorem State.pulledNat_congr {s t : State} (widths : List Width) (w : Width) (hs : t.sp = s.sp) (hm : t.mem = s.mem)
    (hp : t.plat = s.plat) (hb : t.bus = s.bus) : t.pulledNat widths w = s.pulledNat widths w := by
  induction widths generalizing s t with
  | nil => exact congrArg BitVec.toNat (State.topW_congr w hs hm hp hb).1
  | cons v rest ih =>
    exact ih (by rw [State.dropW_sp, State.dropW_sp, hs]) (by simp [hm]) (by simp [hp]) (State.topW_congr v hs hm hp hb).2

theorem State.pulledNat_of_pulls {s t : State} {l : List Width} (h : t = { s.afterPulls l with
      a := t.a, b := t.b, x := t.x, y := t.y, dpr := t.dpr, dt := t.dt, pg := t.pg, pc := t.pc, ps := t.ps
      jumped := t.jumped }) (m : List Width) (w : Width) : t.pulledNat m w = s.pulledNat (l ++ m) w := by
  rw [← State.pulledNat_afterPulls]
  exact State.pulledNat_congr m w (by rw [h]) (by rw [h]) (by rw [h]) (by rw [h])

/-- A pull from memory leaves the bus as it was, and gives the bytes above S (R72, R73). -/
theorem State.drop8_of_memory {s : State} (h : hasMemory s.plat (stackAddr (s.sp + 1#16)) = true) :
    s.drop8 = { s with sp := s.sp + 1#16 } := by
  simp only [State.drop8, State.after8_of_memory h]

theorem State.drop16_of_memory {s : State} (h0 : hasMemory s.plat (stackAddr (s.sp + 1#16)) = true)
    (h1 : hasMemory s.plat (stackAddr (s.sp + 2#16)) = true) :
    s.drop16 = { s with sp := s.sp + 2#16 } ∧
      s.top16 = s.read8 (stackAddr (s.sp + 2#16)) ++ s.read8 (stackAddr (s.sp + 1#16)) := by
  obtain ⟨e1, e2⟩ := State.drop16_split (wordDevice_of_memory h0)
  have ed : s.sp + 1#16 + 1#16 = s.sp + 2#16 := by apply BitVec.eq_of_toNat_eq; simp
  have h2 : hasMemory s.drop8.plat (stackAddr (s.drop8.sp + 1#16)) = true := by simpa [ed] using h1
  rw [e1, e2, State.drop8_of_memory h2, State.top8, State.top8, State.drop8_of_memory h0]
  simp only [ed]
  exact ⟨trivial, congrArg (· ++ _) (State.read8_congr rfl rfl h1)⟩

/-- The number at S in memory, `skip` bytes up, in a pull of width `w` (R72, R73). -/
def State.stackNat (s : State) (skip : Nat) (w : Width) : Nat :=
  match w with
  | .w8 => (s.read8 (mkAddr 0x00#8 (s.sp + BitVec.ofNat 16 (skip + 1)))).toNat
  | .w16 => (s.read8 (mkAddr 0x00#8 (s.sp + BitVec.ofNat 16 (skip + 1)))).toNat +
      256 * (s.read8 (mkAddr 0x00#8 (s.sp + BitVec.ofNat 16 (skip + 2)))).toNat

theorem State.topW_of_memory {s : State} {w : Width}
    (h : ∀ k, k < w.bits / 8 → hasMemory s.plat (mkAddr 0x00#8 (s.sp + BitVec.ofNat 16 (k + 1))) = true) :
    s.dropW w = { s with sp := s.sp + BitVec.ofNat 16 (w.bits / 8) } ∧ (s.topW w).toNat = s.stackNat 0 w := by
  cases w
  · exact ⟨State.drop8_of_memory (h 0 (by decide)), s.top8_toNat.symm⟩
  · obtain ⟨e1, e2⟩ := State.drop16_of_memory (s := s) (h 0 (by decide)) (h 1 (by decide))
    refine ⟨e1, ?_⟩
    rw [State.topW, e2, append_byte_toNat]
    simp only [State.stackNat, stackAddr, Nat.zero_add]; omega

/-- Pulls from memory. -/
theorem State.afterPulls_of_memory {s : State} {widths : List Width}
    (h : ∀ k, k < pullCount widths → hasMemory s.plat (mkAddr 0x00#8 (s.sp + BitVec.ofNat 16 (k + 1))) = true) :
    s.afterPulls widths = { s with sp := s.sp + BitVec.ofNat 16 (pullCount widths) } := by
  have e : (s.afterPulls widths).bus = s.bus := by
    induction widths generalizing s with
    | nil => rfl
    | cons w rest ih =>
      have h0 := (State.topW_of_memory (s := s) (w := w) fun k hk => h k (by simp only [pullCount]; omega)).1
      rw [State.afterPulls, ih fun k hk => ?_, h0]
      have e1 : (s.dropW w).sp + BitVec.ofNat 16 (k + 1) = s.sp + BitVec.ofNat 16 (w.bits / 8 + k + 1) := by
        rw [State.dropW_sp]; apply BitVec.eq_of_toNat_eq; simp; omega
      rw [e1, State.dropW_plat]; exact h (w.bits / 8 + k) (by simp only [pullCount]; omega)
  rw [State.afterPulls_eq, e]

/-- What a pull from memory gives after others: memory shows it before them. -/
theorem State.pulledNat_of_memory {s : State} {widths : List Width} {w : Width}
    (h : ∀ k, k < pullCount widths + w.bits / 8 →
      hasMemory s.plat (mkAddr 0x00#8 (s.sp + BitVec.ofNat 16 (k + 1))) = true) :
    s.pulledNat widths w = s.stackNat (pullCount widths) w := by
  have e : ∀ j, s.sp + BitVec.ofNat 16 (pullCount widths) + BitVec.ofNat 16 j = s.sp + BitVec.ofNat 16 (pullCount widths + j) :=
    fun j => by apply BitVec.eq_of_toNat_eq; simp; omega
  rw [State.pulledNat, State.afterPulls_of_memory fun k hk => h k (by omega)]
  rw [(State.topW_of_memory fun k hk => ?_).2]
  · cases w
    · simp only [State.stackNat, e]
      exact congrArg BitVec.toNat (State.read8_congr rfl rfl (h _ (by simp [Width.bits])))
    · simp only [State.stackNat, e]
      exact congrArg₂ (fun p q : Byte => p.toNat + 256 * q.toNat)
        (State.read8_congr rfl rfl (h (pullCount widths) (by simp [Width.bits])))
        (State.read8_congr rfl rfl (h (pullCount widths + 1) (by simp [Width.bits])))
  · show hasMemory s.plat (mkAddr 0x00#8 (s.sp + BitVec.ofNat 16 (pullCount widths) + BitVec.ofNat 16 (k + 1))) = true
    rw [e]; exact h (pullCount widths + k) (by omega)

/-- A push onto RAM leaves the bus as it was. -/
theorem State.push8_of_ram {s : State} (v : Byte) (h : regionKind s.plat (mkAddr 0x00#8 s.sp) = .ram) :
    s.push8 v = { s with mem := (s.push8 v).mem, sp := s.sp - 1#16 } := by
  simp only [State.push8, State.write8, stackAddr, Bus.afterWrite8_of_ram _ _ h]

theorem State.pushW_of_ram {s : State} (w : Width) (v : Word) (h : stackIsRam s.plat s.sp (w.bits / 8)) :
    s.pushW w v = { s with mem := (s.pushW w v).mem, sp := s.sp - BitVec.ofNat 16 (w.bits / 8) } := by
  have h0 : regionKind s.plat (mkAddr 0x00#8 s.sp) = .ram := by simpa using h 0 (by cases w <;> decide)
  cases w
  · exact State.push8_of_ram (loByte v) h0
  · have h1 : regionKind s.plat (stackAddr (s.sp - 1#16)) = .ram := h 1 (by decide)
    have ed : s.sp - 1#16 - 1#16 = s.sp - 2#16 := by apply BitVec.eq_of_toNat_eq; simp; omega
    have eb : (s.push16 v).bus = s.bus := by
      rw [State.push16_bus, Bus.afterPush16, wordDevice_of_memory (hasMemory_of_ram h1)]
      show (s.bus.afterWrite8 s.plat (mkAddr 0x00#8 s.sp) _).afterWrite8 s.plat _ _ = _
      rw [Bus.afterWrite8_of_ram _ _ h0, Bus.afterWrite8_of_ram _ _ h1]
    rw [State.pushW_eq]
    show { s with sp := (s.push16 v).sp, mem := _, bus := (s.push16 v).bus } = _
    rw [eb, State.push16_sp, ed]; rfl

theorem State.pushAll_of_ram {s : State} {items : List (Width × Word)}
    (h : stackIsRam s.plat s.sp (itemBytes items).length) :
    s.pushAll items = { s with mem := (s.pushAll items).mem, sp := s.sp - BitVec.ofNat 16 (itemBytes items).length } := by
  induction items generalizing s with
  | nil => simp [State.pushAll, itemBytes]
  | cons c rest ih =>
    obtain ⟨w, v⟩ := c
    have hl : (pushBytes w v).length = w.bits / 8 := by cases w <;> simp [pushBytes, Width.bits]
    have e : ∀ k : Nat, s.sp - BitVec.ofNat 16 (w.bits / 8) - BitVec.ofNat 16 k = s.sp - BitVec.ofNat 16 (w.bits / 8 + k) :=
      fun k => by apply BitVec.eq_of_toNat_eq; simp; omega
    simp only [itemBytes, List.length_append, hl] at h ⊢
    have h0 := State.pushW_of_ram (s := s) w v fun k hk => h k (by omega)
    have hs : (s.pushW w v).sp = s.sp - BitVec.ofNat 16 (w.bits / 8) := by rw [h0]
    have h1 := ih (s := s.pushW w v) fun k hk => by rw [hs, e, State.pushW_plat]; exact h _ (by omega)
    rw [hs, e] at h1
    rw [State.pushAll, h1]
    generalize ((s.pushW w v).pushAll rest).mem = m
    rw [h0]

/-! ## Exceptions -/

theorem State.pushFrame_pushes (s : State) (ret : Addr) (h : s.MemOk) :
    Pushes s (s.pushFrame ret) (frameBytes ret s.ps) := by
  rw [State.pushFrame_eq, ← itemBytes_frameItems]; exact s.pushAll_pushes _ h

/-- What an entry leaves alone. -/
theorem State.enter_eq (s : State) (ret : Addr) (vec : Word) (level : Option (BitVec 3)) :
    s.enter ret vec level = { s with
      sp := (s.enter ret vec level).sp, mem := (s.enter ret vec level).mem
      bus := ((s.pushAll (frameItems ret s.ps)).after16 (mkAddr 0x00#8 vec)).bus
      pg := 0x00#8, pc := (s.enter ret vec level).pc
      ps := { s.ps with i := true, ipl := level.getD s.ps.ipl }, jumped := true } := by
  have he := s.pushAll_eq (frameItems ret s.ps)
  simp only [State.enter, State.pushFrame_eq]
  generalize s.pushAll (frameItems ret s.ps) = p at he ⊢
  rw [he]; rfl

/-- Taking an exception (R372): the frame, I, IPL, and PC from the vector read after the pushes. -/
theorem State.enter_effect (s : State) (ret : Addr) (vec : Word) (level : Option (BitVec 3)) (h : s.MemOk) :
    Pushes s (s.enter ret vec level) (frameBytes ret s.ps) ∧
    (s.enter ret vec level).pc.toNat = (s.pushAll (frameItems ret s.ps)).wordAt vec.toNat ∧
    s.enter ret vec level = { s with
      sp := (s.enter ret vec level).sp, mem := (s.enter ret vec level).mem
      bus := ((s.pushAll (frameItems ret s.ps)).after16 (mkAddr 0x00#8 vec)).bus
      pg := 0x00#8, pc := (s.enter ret vec level).pc
      ps := { s.ps with i := true, ipl := level.getD s.ps.ipl }, jumped := true } := by
  refine ⟨(s.pushFrame_pushes ret h).of_mem rfl rfl rfl rfl rfl rfl ?_, ?_, s.enter_eq ret vec level⟩
  · rw [State.pushFrame_eq, State.pushAll_eq]
  · have e : addrOfNat vec.toNat = vectorAddr vec := by
      apply BitVec.eq_of_toNat_eq; have := vec.isLt; simp [addrOfNat, vectorAddr]; omega
    simp only [State.enter, State.loadVector_pc, State.pushFrame_eq, State.wordAt, e]
    rfl

/-- Returning from one (R347, R377): PS, PC and PG from the five bytes pulled. -/
theorem State.leave_effect (s : State) :
    s.leave = { s with
      sp := s.sp + 5#16, bus := (s.afterPulls [.w16, .w16, .w8]).bus, ps := PS.ofWord s.top16, pc := s.leave.pc
      pg := s.leave.pg, jumped := true } ∧
    s.leave.pc.toNat = s.pulledNat [.w16] .w16 ∧ s.leave.pg.toNat = s.pulledNat [.w16, .w16] .w8 := by
  have e2 : s.afterPulls [.w16] = s.drop16 := rfl
  have e4 : s.afterPulls [.w16, .w16] = s.drop16.drop16 := rfl
  have e5 : s.afterPulls [.w16, .w16, .w8] = s.drop16.drop16.drop8 := rfl
  refine ⟨?_, ?_, ?_⟩
  · have e : s.leave = { s.drop16.drop16.drop8 with
        ps := PS.ofWord s.top16, pc := s.leave.pc, pg := s.leave.pg, jumped := true } := rfl
    rw [← e5, State.afterPulls_eq] at e
    exact e
  · rw [State.pulledNat, e2]; rfl
  · rw [State.pulledNat, e4]; exact s.drop16.drop16.top8_toNat

theorem State.enter_memOk {s : State} (ret : Addr) (vec : Word) (level : Option (BitVec 3)) (h : s.MemOk) :
    (s.enter ret vec level).MemOk := by
  have := s.pushAll_memOk (frameItems ret s.ps) h
  rw [← State.pushFrame_eq] at this
  exact this

end Sys2Proof.Machine
end

