-- ==== Sys2Proof/Laws/Effects.lean ====
section
/-! SUPPORT. What the operations over operands, flags, branches, PSH and block transfers do, once each, in the terms of
Safety.lean. -/

namespace Sys2Proof.Machine

/-! ## Addresses -/

theorem State.xNat_lt (s : State) : s.xNat < 65536 := by
  have := s.x.isLt
  simp only [State.xNat]; split <;> omega

theorem State.yNat_lt (s : State) : s.yNat < 65536 := by
  have := s.y.isLt
  simp only [State.yNat]; split <;> omega

theorem State.direct_toNat (s : State) (dd : Byte) : (s.direct dd).toNat = s.dpr.toNat + dd.toNat := by
  have := s.dpr.isLt; have := dd.isLt
  simp [State.direct]; omega

theorem State.stackRel_toNat (s : State) (nn : Byte) : (s.stackRel nn).toNat = s.sp.toNat + nn.toNat := by
  have := s.sp.isLt; have := nn.isLt
  simp [State.stackRel]; omega

/-- A pointer's address counts modulo 2^24. -/
theorem State.wordAt_mod (s : State) (n : Nat) : s.wordAt (n % 2 ^ 24) = s.wordAt n := by
  have e : addrOfNat (n % 2 ^ 24) = addrOfNat n := by
    apply BitVec.eq_of_toNat_eq; simp [addrOfNat]
  simp only [State.wordAt, e]

/-! ## Values -/

@[simp] theorem State.accW_toNat (s : State) (r : Acc) (w : Width) : (s.accW r w).toNat = lowNat w (s.acc r) :=
  trunc_toNat _ _

theorem lowNat_of_lt {w : Width} {v : Word} (h : v.toNat < 2 ^ w.bits) : lowNat w v = v.toNat := Nat.mod_eq_of_lt h

theorem getLsbD_eq (v : Word) (k : Nat) : v.getLsbD k = decide (v.toNat / 2 ^ k % 2 = 1) := by
  simp only [BitVec.getLsbD, Nat.testBit, Nat.shiftRight_eq_div_pow, Nat.one_and_eq_mod_two]
  rw [Bool.eq_iff_iff]; simp

theorem plusOne_mod (w : Width) (v : Word) : (plusOne w v).toNat % 2 ^ w.bits = (v.toNat + 1) % 2 ^ w.bits := by
  have := v.isLt
  rw [plusOne, trunc_toNat, lowNat]
  cases w <;> simp [Width.bits]

theorem minusOne_mod (w : Width) (v : Word) : (minusOne w v).toNat % 2 ^ w.bits = (v.toNat + 65535) % 2 ^ w.bits := by
  have := v.isLt
  rw [minusOne, trunc_toNat, lowNat, BitVec.toNat_sub]
  cases w <;> simp [Width.bits] <;> omega

/-- The two cases of a signed byte (R11). -/
theorem signedNat_w8 (a : Nat) : (signedNat .w8 a = a ∧ a < 128) ∨ (signedNat .w8 a = a - 256 ∧ 128 ≤ a) := by
  unfold signedNat
  by_cases h : a < 2 ^ (Width.w8.bits - 1)
  · exact .inl ⟨by rw [if_pos h], h⟩
  · exact .inr ⟨by rw [if_neg h]; rfl, Nat.not_lt.mp h⟩

/-- The two cases of a signed word (R11). -/
theorem signedNat_w16 (a : Nat) : (signedNat .w16 a = a ∧ a < 32768) ∨ (signedNat .w16 a = a - 65536 ∧ 32768 ≤ a) := by
  unfold signedNat
  by_cases h : a < 2 ^ (Width.w16.bits - 1)
  · exact .inl ⟨by rw [if_pos h], h⟩
  · exact .inr ⟨by rw [if_neg h]; rfl, Nat.not_lt.mp h⟩

/-! ## Frames -/

theorem SameBytes.trans {s t u : State} (hp : t.plat = s.plat) (h : SameBytes s t) (g : SameBytes t u) : SameBytes s u :=
  fun a ha => (g a (by rw [hp]; exact ha)).trans (h a ha)

/-- A write of an accumulator changes that accumulator only. -/
theorem State.onlyAcc_setAcc (s t : State) (r : Acc) (w : Width) (v : Word) (h : t = { s.setAcc r w v with ps := t.ps }) :
    OnlyAcc r s t := by
  cases r <;> (simp only [OnlyAcc]; rw [h]; rfl)

@[simp] theorem State.writeDst_ps (s : State) (w : Width) (dst : Dst) (v : Word) : (s.writeDst w dst v).ps = s.ps := by
  cases dst <;> simp [State.writeDst, State.updateMem]

/-- What a write of an operand in place does (R76, R287). -/
theorem State.writeDst_effect {s : State} (h : s.MemOk) (w : Width) (dst : Dst) (v : Word) (n : Nat)
    (hv : v.toNat % 2 ^ w.bits = n % 2 ^ w.bits) (t : State) (ht : t = { s.writeDst w dst v with ps := t.ps }) :
    WritesDst s t w dst n := by
  cases dst with
  | acc r =>
    refine ⟨?_, s.onlyAcc_setAcc t r w v ht, ?_⟩
    · rw [ht]
      have := (s.setAcc_low r w v).congr hv
      cases r <;> exact this
    · rw [ht]
      exact SameBytes.of_mem rfl rfl
  | mem md =>
    have e : s.updateMem w md (BitVec.ofNat 16 n) = s.updateMem w md v :=
      State.writeW_congr _ w _ (by rw [hv]; cases w <;> simp [Width.bits])
    refine ⟨(s.updateMem_stores w md v h).congr hv (by rw [ht]; rfl) (by rw [ht]; rfl) (by simp [State.updateMem]), ?_⟩
    rw [e, ht, State.writeDst, State.updateMem_eq]

/-! ## Branches -/

/-- The 24-bit sum with a signed offset (R146). -/
theorem addr_add_toInt (a b : Addr) : ((a + b).toNat : Int) = ((a.toNat : Int) + b.toInt) % 2 ^ 24 := by
  rw [BitVec.toNat_add, BitVec.toInt_eq_toNat_cond]
  have := a.isLt; have := b.isLt
  split <;> omega

theorem State.branch_short (s : State) (rr : Byte) : BranchesBy s (s.branch (rr.signExtend 24)) rr.toInt := by
  refine ⟨rfl, ?_⟩
  rw [← BitVec.toInt_signExtend_of_le (show 8 ≤ 24 by omega), ← addr_add_toInt]
  simp [State.branch, State.jumpTo, State.next]

theorem State.branch_long (s : State) (rr : Word) : BranchesBy s (s.branch (rr.signExtend 24)) rr.toInt := by
  refine ⟨rfl, ?_⟩
  rw [← BitVec.toInt_signExtend_of_le (show 16 ≤ 24 by omega), ← addr_add_toInt]
  simp [State.branch, State.jumpTo, State.next]

/-! ## Stack -/

/-- One step of PSH (R212). -/
theorem State.pushIf_eq (s : State) (bit : Bool) (w : Width) (v : Word) :
    s.pushIf bit w v = s.pushAll (if bit then [(w, v)] else []) := by cases bit <;> rfl

theorem pushBytes_ofByte (v : Byte) : pushBytes .w8 (ofByte v) = [v] := by simp [pushBytes]

@[simp] theorem State.dropW_wm (s : State) (w : Width) : (s.dropW w).wm = s.wm := by
  rw [s.dropW_record]; rfl
@[simp] theorem State.dropW_wx (s : State) (w : Width) : (s.dropW w).wx = s.wx := by
  rw [s.dropW_record]; rfl

/-- An entry above none of the given ones is not seen. -/
theorem readAfter_skip (s : State) (l m : List (Addr × Byte)) (b : Addr) (h : ∀ c ∈ l, c.1 ≠ b) :
    readAfter s (l ++ m) b = readAfter s m b := by
  induction l with
  | nil => rfl
  | cons c rest ih =>
    simp only [List.cons_append, readAfter]
    rw [if_neg fun e => h c (by simp) e.1]
    exact ih fun d hd => h d (by simp [hd])

theorem sub_sub_one (p : Word) (j : Nat) : p - BitVec.ofNat 16 (j + 1) = p - 1#16 - BitVec.ofNat 16 j := by
  apply BitVec.eq_of_toNat_eq; simp; omega

/-- Pushes from `p` down store below `00h:p` only. -/
theorem stackStores_addr (bytes : List Byte) (p q : Word) (h : ∀ j, j < bytes.length → p - BitVec.ofNat 16 j ≠ q) :
    ∀ c ∈ stackStores p bytes [], c.1 ≠ mkAddr 0x00#8 q := by
  induction bytes generalizing p with
  | nil => simp [stackStores]
  | cons v rest ih =>
    intro c hc
    rw [stackStores, stackStores_append, List.mem_append, List.mem_singleton] at hc
    rcases hc with hc | rfl
    · exact ih (p - 1#16) (fun j hj => sub_sub_one p j ▸ h (j + 1) (by simpa using hj)) c hc
    · intro e
      have := congrArg offsetOf e
      exact h 0 (by simp) (by simpa using this)

/-- The byte pushed as number `k` is at `00h:sp - k` afterwards, where that is RAM (R70, R71). -/
theorem readAfter_stackStores (s : State) (bytes : List Byte) (sp : Word) (earlier : List (Addr × Byte)) (k : Nat)
    (hk : k < bytes.length) (hl : bytes.length ≤ 65536)
    (hr : regionKind s.plat (mkAddr 0x00#8 (sp - BitVec.ofNat 16 k)) = .ram) :
    readAfter s (stackStores sp bytes earlier) (mkAddr 0x00#8 (sp - BitVec.ofNat 16 k)) = bytes[k] := by
  induction bytes generalizing sp earlier k with
  | nil => simp at hk
  | cons v rest ih =>
    simp only [List.length_cons] at hk hl
    simp only [stackStores]
    cases k with
    | zero =>
      have e : sp - BitVec.ofNat 16 0 = sp := by simp
      rw [e] at hr ⊢
      rw [stackStores_append, readAfter_skip]
      · simp [readAfter, hr]
      · refine stackStores_addr rest (sp - 1#16) sp fun j hj he => ?_
        have := congrArg BitVec.toNat he
        simp at this
        omega
    | succ k =>
      have e := sub_sub_one sp k
      rw [e] at hr ⊢
      exact ih (sp - 1#16) _ k (by omega) (by omega) hr

/-! ## Block transfers -/

/-- Where no request can end a transfer early, it goes on from the same state (R248). -/
theorem State.afterStep_same (s : State) (n : Nat) (h : s.plat.blockMoveInterruptible = false ∨ s.inputs = []) :
    s.afterStep n = some s := by
  unfold State.afterStep
  split
  · rfl
  · unfold State.betweenSteps
    rcases h with h | h
    · simp [h]
    · simp only [State.arriving, h, List.headD_nil, quiet, choose, List.tail_nil]
      split
      · rw [← h]
      · rfl

/-! ## The stores of a reset -/

theorem fillRam_wf (p : Platform) (cells : List Host.Cell) {mem : List Host.Cell} (h : Memory.wf mem = true) :
    Memory.wf (fillRam p mem cells) = true := by
  induction cells generalizing mem with
  | nil => exact h
  | cons c rest ih =>
    obtain ⟨a, v⟩ := c
    exact ih (storeByte_wf p (BitVec.ofNat 24 a) v h)

end Sys2Proof.Machine
end

