-- ==== Sys2Proof/Laws/PerInstr.lean ====
section
/-! SUPPORT. One lemma for each constructor of Instr: the encoding of a well-formed instruction begins with an operation
code that the tables list for the series (R104 to R106), so no well-formed instruction is written as an undefined code. -/

namespace Sys2Proof.Laws.CodeDefined

open Sys2Proof Sys2Proof.Machine

/-- The bytes begin with an operation code that the tables list. -/
def listed (series7750 : Bool) (bytes : List Byte) : Bool :=
  match bytes with
  | [] => false
  | [b0] => definedCode series7750 b0.toNat 0
  | b0 :: b1 :: _ => definedCode series7750 b0.toNat b1.toNat

/-- A well-formed instruction is written with a code that the tables list. -/
def Statement (i : Instr) : Prop := ∀ c : DecodeCtx, i.wellFormed c = true → listed c.series7750 (encode i) = true

theorem lda (acc : Acc) (src : Src) : Statement (.lda acc src) := by
  intro c h
  cases src with
  | imm i => cases acc <;> cases i <;> rfl
  | mem md => cases acc <;> cases md <;> first | rfl | cases h

theorem ldm (md : Mode) (imm : Imm) : Statement (.ldm md imm) := by
  intro c h
  cases md <;> cases imm <;> first | rfl | cases h

theorem ldt (imm : Byte) : Statement (.ldt imm) := fun _ _ => rfl

theorem ldx (src : Src) : Statement (.ldx src) := by
  intro c h
  cases src with
  | imm i => cases i <;> rfl
  | mem md => cases md <;> first | rfl | cases h

theorem ldy (src : Src) : Statement (.ldy src) := by
  intro c h
  cases src with
  | imm i => cases i <;> rfl
  | mem md => cases md <;> first | rfl | cases h

theorem sta (acc : Acc) (md : Mode) : Statement (.sta acc md) := by
  intro c h
  cases acc <;> cases md <;> first | rfl | cases h

theorem stx (md : Mode) : Statement (.stx md) := by
  intro c h
  cases md <;> first | rfl | cases h

theorem sty (md : Mode) : Statement (.sty md) := by
  intro c h
  cases md <;> first | rfl | cases h

theorem tad : Statement .tad := fun _ _ => rfl

theorem tas : Statement .tas := fun _ _ => rfl

theorem tax : Statement .tax := fun _ _ => rfl

theorem tay : Statement .tay := fun _ _ => rfl

theorem tbd : Statement .tbd := fun _ _ => rfl

theorem tbs : Statement .tbs := fun _ _ => rfl

theorem tbx : Statement .tbx := fun _ _ => rfl

theorem tby : Statement .tby := fun _ _ => rfl

theorem tda : Statement .tda := fun _ _ => rfl

theorem tdb : Statement .tdb := fun _ _ => rfl

theorem tsa : Statement .tsa := fun _ _ => rfl

theorem tsb : Statement .tsb := fun _ _ => rfl

theorem tsx : Statement .tsx := fun _ _ => rfl

theorem txs : Statement .txs := fun _ _ => rfl

theorem txy : Statement .txy := fun _ _ => rfl

theorem txa : Statement .txa := fun _ _ => rfl

theorem txb : Statement .txb := fun _ _ => rfl

theorem tya : Statement .tya := fun _ _ => rfl

theorem tyb : Statement .tyb := fun _ _ => rfl

theorem tyx : Statement .tyx := fun _ _ => rfl

theorem xab : Statement .xab := fun _ _ => rfl

theorem psh (nn : Byte) : Statement (.psh nn) := fun _ _ => rfl

theorem pul (nn : Byte) : Statement (.pul nn) := fun _ _ => rfl

theorem pea (imm : Word) : Statement (.pea imm) := fun _ _ => rfl

theorem pei (dd : Byte) : Statement (.pei dd) := fun _ _ => rfl

theorem per (imm : Word) : Statement (.per imm) := fun _ _ => rfl

theorem pha : Statement .pha := fun _ _ => rfl

theorem phb : Statement .phb := fun _ _ => rfl

theorem phd : Statement .phd := fun _ _ => rfl

theorem phg : Statement .phg := fun _ _ => rfl

theorem php : Statement .php := fun _ _ => rfl

theorem pht : Statement .pht := fun _ _ => rfl

theorem phx : Statement .phx := fun _ _ => rfl

theorem phy : Statement .phy := fun _ _ => rfl

theorem pla : Statement .pla := fun _ _ => rfl

theorem plb : Statement .plb := fun _ _ => rfl

theorem pld : Statement .pld := fun _ _ => rfl

theorem plp : Statement .plp := fun _ _ => rfl

theorem plt : Statement .plt := fun _ _ => rfl

theorem plx : Statement .plx := fun _ _ => rfl

theorem ply : Statement .ply := fun _ _ => rfl

theorem mvn (n1 : Byte) (n2 : Byte) : Statement (.mvn n1 n2) := fun _ _ => rfl

theorem mvp (n1 : Byte) (n2 : Byte) : Statement (.mvp n1 n2) := fun _ _ => rfl

theorem adc (acc : Acc) (src : Src) : Statement (.adc acc src) := by
  intro c h
  cases src with
  | imm i => cases acc <;> cases i <;> rfl
  | mem md => cases acc <;> cases md <;> first | rfl | cases h

theorem sbc (acc : Acc) (src : Src) : Statement (.sbc acc src) := by
  intro c h
  cases src with
  | imm i => cases acc <;> cases i <;> rfl
  | mem md => cases acc <;> cases md <;> first | rfl | cases h

theorem inc (dst : Dst) : Statement (.inc dst) := by
  intro c h
  cases dst with
  | acc r => cases r <;> rfl
  | mem md => cases md <;> first | rfl | cases h

theorem dec (dst : Dst) : Statement (.dec dst) := by
  intro c h
  cases dst with
  | acc r => cases r <;> rfl
  | mem md => cases md <;> first | rfl | cases h

theorem inx : Statement .inx := fun _ _ => rfl

theorem iny : Statement .iny := fun _ _ => rfl

theorem dex : Statement .dex := fun _ _ => rfl

theorem dey : Statement .dey := fun _ _ => rfl

theorem mpy (src : Src) : Statement (.mpy src) := by
  intro c h
  cases src with
  | imm i => cases i <;> rfl
  | mem md => cases md <;> first | rfl | cases h

theorem mpys (src : Src) : Statement (.mpys src) := by
  intro c h
  have hs : c.series7750 = true := (Bool.and_eq_true_iff.mp h).1
  rw [hs]
  cases src with
  | imm i => cases i <;> rfl
  | mem md => cases md <;> first | rfl | cases (Bool.and_eq_true_iff.mp h).2

theorem div (src : Src) : Statement (.div src) := by
  intro c h
  cases src with
  | imm i => cases i <;> rfl
  | mem md => cases md <;> first | rfl | cases h

theorem divs (src : Src) : Statement (.divs src) := by
  intro c h
  have hs : c.series7750 = true := (Bool.and_eq_true_iff.mp h).1
  rw [hs]
  cases src with
  | imm i => cases i <;> rfl
  | mem md => cases md <;> first | rfl | cases (Bool.and_eq_true_iff.mp h).2

theorem and (acc : Acc) (src : Src) : Statement (.and acc src) := by
  intro c h
  cases src with
  | imm i => cases acc <;> cases i <;> rfl
  | mem md => cases acc <;> cases md <;> first | rfl | cases h

theorem ora (acc : Acc) (src : Src) : Statement (.ora acc src) := by
  intro c h
  cases src with
  | imm i => cases acc <;> cases i <;> rfl
  | mem md => cases acc <;> cases md <;> first | rfl | cases h

theorem eor (acc : Acc) (src : Src) : Statement (.eor acc src) := by
  intro c h
  cases src with
  | imm i => cases acc <;> cases i <;> rfl
  | mem md => cases acc <;> cases md <;> first | rfl | cases h

theorem cmp (acc : Acc) (src : Src) : Statement (.cmp acc src) := by
  intro c h
  cases src with
  | imm i => cases acc <;> cases i <;> rfl
  | mem md => cases acc <;> cases md <;> first | rfl | cases h

theorem cpx (src : Src) : Statement (.cpx src) := by
  intro c h
  cases src with
  | imm i => cases i <;> rfl
  | mem md => cases md <;> first | rfl | cases h

theorem cpy (src : Src) : Statement (.cpy src) := by
  intro c h
  cases src with
  | imm i => cases i <;> rfl
  | mem md => cases md <;> first | rfl | cases h

theorem asl (dst : Dst) : Statement (.asl dst) := by
  intro c h
  cases dst with
  | acc r => cases r <;> rfl
  | mem md => cases md <;> first | rfl | cases h

theorem asr (dst : Dst) : Statement (.asr dst) := by
  intro c h
  have hs : c.series7750 = true := (Bool.and_eq_true_iff.mp h).1
  rw [hs]
  cases dst with
  | acc r => cases r <;> rfl
  | mem md => cases md <;> first | rfl | cases (Bool.and_eq_true_iff.mp h).2

theorem lsr (dst : Dst) : Statement (.lsr dst) := by
  intro c h
  cases dst with
  | acc r => cases r <;> rfl
  | mem md => cases md <;> first | rfl | cases h

theorem rol (dst : Dst) : Statement (.rol dst) := by
  intro c h
  cases dst with
  | acc r => cases r <;> rfl
  | mem md => cases md <;> first | rfl | cases h

theorem ror (dst : Dst) : Statement (.ror dst) := by
  intro c h
  cases dst with
  | acc r => cases r <;> rfl
  | mem md => cases md <;> first | rfl | cases h

theorem rla (imm : Imm) : Statement (.rla imm) := by
  cases imm <;> exact fun _ _ => rfl

theorem exts (acc : Acc) : Statement (.exts acc) := by
  intro c h
  have hs : c.series7750 = true := h
  rw [hs]
  cases acc <;> rfl

theorem extz (acc : Acc) : Statement (.extz acc) := by
  intro c h
  have hs : c.series7750 = true := h
  rw [hs]
  cases acc <;> rfl

theorem clb (md : Mode) (imm : Imm) : Statement (.clb md imm) := by
  intro c h
  cases md <;> cases imm <;> first | rfl | cases h

theorem seb (md : Mode) (imm : Imm) : Statement (.seb md imm) := by
  intro c h
  cases md <;> cases imm <;> first | rfl | cases h

theorem clp (imm : Byte) : Statement (.clp imm) := fun _ _ => rfl

theorem sep (imm : Byte) : Statement (.sep imm) := fun _ _ => rfl

theorem clc : Statement .clc := fun _ _ => rfl

theorem cli : Statement .cli := fun _ _ => rfl

theorem clm : Statement .clm := fun _ _ => rfl

theorem clv : Statement .clv := fun _ _ => rfl

theorem sec : Statement .sec := fun _ _ => rfl

theorem sei : Statement .sei := fun _ _ => rfl

theorem sem : Statement .sem := fun _ _ => rfl

theorem jmp (t : Target) : Statement (.jmp t) := by
  intro c h
  cases t <;> rfl

theorem jsr (t : Target) : Statement (.jsr t) := by
  intro c h
  cases t <;> first | rfl | cases h

theorem bra (rel : Rel) : Statement (.bra rel) := by
  intro c h
  cases rel <;> rfl

theorem bbc (md : Mode) (imm : Imm) (rr : Byte) : Statement (.bbc md imm rr) := by
  intro c h
  cases md <;> cases imm <;> first | rfl | cases h

theorem bbs (md : Mode) (imm : Imm) (rr : Byte) : Statement (.bbs md imm rr) := by
  intro c h
  cases md <;> cases imm <;> first | rfl | cases h

theorem bcc (rr : Byte) : Statement (.bcc rr) := fun _ _ => rfl

theorem bcs (rr : Byte) : Statement (.bcs rr) := fun _ _ => rfl

theorem beq (rr : Byte) : Statement (.beq rr) := fun _ _ => rfl

theorem bmi (rr : Byte) : Statement (.bmi rr) := fun _ _ => rfl

theorem bne (rr : Byte) : Statement (.bne rr) := fun _ _ => rfl

theorem bpl (rr : Byte) : Statement (.bpl rr) := fun _ _ => rfl

theorem bvc (rr : Byte) : Statement (.bvc rr) := fun _ _ => rfl

theorem bvs (rr : Byte) : Statement (.bvs rr) := fun _ _ => rfl

theorem rts : Statement .rts := fun _ _ => rfl

theorem rtl : Statement .rtl := fun _ _ => rfl

theorem rti : Statement .rti := fun _ _ => rfl

theorem brk (nn : Byte) : Statement (.brk nn) := fun _ _ => rfl

theorem nop : Statement .nop := fun _ _ => rfl

theorem stp : Statement .stp := fun _ _ => rfl

theorem wit : Statement .wit := fun _ _ => rfl

end Sys2Proof.Laws.CodeDefined
end

