-- ==== Sys2Proof/Tests/Slice0.lean ====
section
/-! SUPPORT. Tests: terms that WellFormed refuses, decoding of words written out from the tables, one step of each
instruction, and for each statement with hypotheses a state that meets them. Expected results are those of
96_derived_vectors.md, cited by number, unless a comment says otherwise. -/

namespace Sys2Proof.Tests

open Sys2Proof Sys2Proof.Machine

/-- The start of the vectors: S = 01FFh, PS = 0004h, PG:PC = 00:8000h, all else 0. -/
def blank : State := { State.reset with pc := 0x8000#16, sp := 0x01FF#16, inReset := false }

/-- The state after one step with the given bytes placed at PG:PC. -/
def ran (s : State) (bytes : List Byte) : Option State :=
  match step { s with mem := placeBytes s.mem s.next bytes } with
  | .next t => some t
  | .fault _ => none
  | .refused _ => none

/-- The refusal of one step, if it is refused. -/
def refusal (o : Host.Outcome State Fault Refusal) : Option Refusal :=
  match o with
  | .next _ => none
  | .fault _ => none
  | .refused r => some r

/-- The decoder reads exactly this instruction from exactly these bytes. -/
def reads (m x : Bool) (bytes : List Byte) (i : Instr) : Bool :=
  match decode ⟨true, m, x⟩ bytes with
  | .ok (j, []) => decide (j = i)
  | .ok (_, _ :: _) => false
  | .error _ => false

/-! ## Ill-formed terms, one for each check (R98, R154, R3) -/

theorem test_illFormed_immediate_longer_than_m : 
    Instr.wellFormed ⟨true, true, false⟩ (.lda .a (.imm (.word 0x0012#16))) = false := by decide
theorem test_illFormed_immediate_shorter_than_m : 
    Instr.wellFormed ⟨true, false, true⟩ (.ldm (.dir 0x10#8) (.byte 0x12#8)) = false := by decide
theorem test_illFormed_immediate_longer_than_x : 
    Instr.wellFormed ⟨true, false, true⟩ (.ldx (.imm (.word 0x0012#16))) = false := by decide
theorem test_illFormed_immediate_shorter_than_x : 
    Instr.wellFormed ⟨true, true, false⟩ (.cpy (.imm (.byte 0x12#8))) = false := by decide
theorem test_illFormed_rla_immediate : 
    Instr.wellFormed ⟨true, true, true⟩ (.rla (.word 0x0001#16)) = false := by decide
theorem test_illFormed_mask_length : 
    Instr.wellFormed ⟨true, false, false⟩ (.bbs (.dir 0x10#8) (.byte 0x01#8) 0x00#8) = false := by decide
theorem test_illFormed_accumulator_dirY : 
    Instr.wellFormed ⟨true, false, false⟩ (.adc .a (.mem (.dirY 0x10#8))) = false := by decide
theorem test_illFormed_sta_dirY : 
    Instr.wellFormed ⟨true, false, false⟩ (.sta .b (.dirY 0x10#8)) = false := by decide
theorem test_illFormed_mpy_dirY : 
    Instr.wellFormed ⟨true, false, false⟩ (.mpy (.mem (.dirY 0x10#8))) = false := by decide
theorem test_illFormed_ldm_sr : 
    Instr.wellFormed ⟨true, true, false⟩ (.ldm (.sr 0x10#8) (.byte 0x12#8)) = false := by decide
theorem test_illFormed_ldx_dirX : 
    Instr.wellFormed ⟨true, false, false⟩ (.ldx (.mem (.dirX 0x10#8))) = false := by decide
theorem test_illFormed_ldy_dirY : 
    Instr.wellFormed ⟨true, false, false⟩ (.ldy (.mem (.dirY 0x10#8))) = false := by decide
theorem test_illFormed_stx_dirX : 
    Instr.wellFormed ⟨true, false, false⟩ (.stx (.dirX 0x10#8)) = false := by decide
theorem test_illFormed_sty_dirY : 
    Instr.wellFormed ⟨true, false, false⟩ (.sty (.dirY 0x10#8)) = false := by decide
theorem test_illFormed_cpx_absX : 
    Instr.wellFormed ⟨true, false, false⟩ (.cpx (.mem (.absX 0x1000#16))) = false := by decide
theorem test_illFormed_inc_absL : 
    Instr.wellFormed ⟨true, false, false⟩ (.inc (.mem (.absL 0x123456#24))) = false := by decide
theorem test_illFormed_clb_dirX : 
    Instr.wellFormed ⟨true, true, false⟩ (.clb (.dirX 0x10#8) (.byte 0x01#8)) = false := by decide
theorem test_illFormed_jsr_ind : 
    Instr.wellFormed ⟨true, false, false⟩ (.jsr (.ind 0x1000#16)) = false := by decide
theorem test_illFormed_mpys_series : 
    Instr.wellFormed ⟨false, true, false⟩ (.mpys (.imm (.byte 0x02#8))) = false := by decide
theorem test_illFormed_divs_series : 
    Instr.wellFormed ⟨false, true, false⟩ (.divs (.imm (.byte 0x02#8))) = false := by decide
theorem test_illFormed_asr_series : 
    Instr.wellFormed ⟨false, true, false⟩ (.asr (.acc .a)) = false := by decide
theorem test_illFormed_exts_series : 
    Instr.wellFormed ⟨false, true, false⟩ (.exts .b) = false := by decide
theorem test_illFormed_extz_series : 
    Instr.wellFormed ⟨false, true, false⟩ (.extz .a) = false := by decide

/-! ## Decoding, one word for each instruction, the bytes as the code tables print them (R104 to R106) -/

theorem test_decode_load : ([
  reads false false [0xA5#8, 0x20#8] (.lda .a (.mem (.dir 0x20#8))),
  reads false false [0x9E#8, 0x00#8, 0x20#8, 0x34#8, 0x12#8] (.ldm (.absX 0x2000#16) (.word 0x1234#16)),
  reads false false [0x89#8, 0xC2#8, 0x7E#8] (.ldt 0x7E#8),
  reads false true [0xA2#8, 0x00#8] (.ldx (.imm (.byte 0x00#8))),
  reads false true [0xBC#8, 0x00#8, 0x20#8] (.ldy (.mem (.absX 0x2000#16))),
  reads false false [0x8D#8, 0x00#8, 0x20#8] (.sta .a (.abs 0x2000#16)),
  reads false false [0x96#8, 0x02#8] (.stx (.dirY 0x02#8)),
  reads false true [0x94#8, 0x10#8] (.sty (.dirX 0x10#8))].all id) = true := by decide

theorem test_decode_transfer : ([
  reads true false [0x5B#8] .tad,
  reads true false [0x1B#8] .tas,
  reads false true [0xAA#8] .tax,
  reads false true [0xA8#8] .tay,
  reads false false [0x42#8, 0x5B#8] .tbd,
  reads false false [0x42#8, 0x1B#8] .tbs,
  reads false false [0x42#8, 0xAA#8] .tbx,
  reads false true [0x42#8, 0xA8#8] .tby,
  reads true false [0x7B#8] .tda,
  reads false false [0x42#8, 0x7B#8] .tdb,
  reads false false [0x3B#8] .tsa,
  reads true false [0x42#8, 0x3B#8] .tsb,
  reads false true [0xBA#8] .tsx,
  reads false true [0x9A#8] .txs,
  reads false true [0x9B#8] .txy,
  reads false true [0x8A#8] .txa,
  reads false true [0x42#8, 0x8A#8] .txb,
  reads true true [0x98#8] .tya,
  reads false false [0x42#8, 0x98#8] .tyb,
  reads false false [0xBB#8] .tyx,
  reads true false [0x89#8, 0x28#8] .xab].all id) = true := by decide

theorem test_decode_stack : ([
  reads false false [0xEB#8, 0xFF#8] (.psh 0xFF#8),
  reads false false [0xFB#8, 0x81#8] (.pul 0x81#8),
  reads false false [0xF4#8, 0x34#8, 0x12#8] (.pea 0x1234#16),
  reads true false [0xD4#8, 0x10#8] (.pei 0x10#8),
  reads false false [0x62#8, 0x10#8, 0x00#8] (.per 0x0010#16),
  reads false false [0x48#8] .pha,
  reads false false [0x42#8, 0x48#8] .phb,
  reads true false [0x0B#8] .phd,
  reads false false [0x4B#8] .phg,
  reads true false [0x08#8] .php,
  reads false false [0x8B#8] .pht,
  reads false true [0xDA#8] .phx,
  reads false false [0x5A#8] .phy,
  reads true false [0x68#8] .pla,
  reads false false [0x42#8, 0x68#8] .plb,
  reads false false [0x2B#8] .pld,
  reads false false [0x28#8] .plp,
  reads false false [0xAB#8] .plt,
  reads false true [0xFA#8] .plx,
  reads false false [0x7A#8] .ply].all id) = true := by decide

theorem test_decode_block : ([
  reads false false [0x54#8, 0x02#8, 0x01#8] (.mvn 0x02#8 0x01#8),
  reads false false [0x44#8, 0x02#8, 0x01#8] (.mvp 0x02#8 0x01#8)].all id) = true := by decide

theorem test_decode_arithmetic : ([
  reads false false [0x69#8, 0x00#8, 0x00#8] (.adc .a (.imm (.word 0x0000#16))),
  reads true false [0xE9#8, 0x01#8] (.sbc .a (.imm (.byte 0x01#8))),
  reads false false [0x42#8, 0x3A#8] (.inc (.acc .b)),
  reads true false [0xD6#8, 0x10#8] (.dec (.mem (.dirX 0x10#8))),
  reads false true [0xE8#8] .inx,
  reads false false [0xC8#8] .iny,
  reads false false [0xCA#8] .dex,
  reads false false [0x88#8] .dey,
  reads true false [0x89#8, 0x09#8, 0xFF#8] (.mpy (.imm (.byte 0xFF#8))),
  reads true false [0x89#8, 0x89#8, 0x02#8] (.mpys (.imm (.byte 0x02#8))),
  reads true false [0x89#8, 0x29#8, 0x07#8] (.div (.imm (.byte 0x07#8))),
  reads true false [0x89#8, 0xA9#8, 0x02#8] (.divs (.imm (.byte 0x02#8)))].all id) = true := by decide

theorem test_decode_logic : ([
  reads true false [0x29#8, 0x3C#8] (.and .a (.imm (.byte 0x3C#8))),
  reads false false [0x09#8, 0x01#8, 0x00#8] (.ora .a (.imm (.word 0x0001#16))),
  reads false false [0x49#8, 0xFF#8, 0xFF#8] (.eor .a (.imm (.word 0xFFFF#16))),
  reads false false [0xC9#8, 0x00#8, 0x20#8] (.cmp .a (.imm (.word 0x2000#16))),
  reads false true [0xE0#8, 0x80#8] (.cpx (.imm (.byte 0x80#8))),
  reads false false [0xC0#8, 0x01#8, 0x00#8] (.cpy (.imm (.word 0x0001#16))),
  reads false false [0x42#8, 0x0A#8] (.asl (.acc .b)),
  reads true false [0x89#8, 0x06#8, 0x10#8] (.asr (.mem (.dir 0x10#8))),
  reads false false [0x56#8, 0x10#8] (.lsr (.mem (.dirX 0x10#8))),
  reads false false [0x2A#8] (.rol (.acc .a)),
  reads true false [0x6A#8] (.ror (.acc .a)),
  reads false false [0x89#8, 0x49#8, 0x11#8, 0x00#8] (.rla (.word 0x0011#16)),
  reads false false [0x42#8, 0x8B#8] (.exts .b),
  reads false false [0x89#8, 0xAB#8] (.extz .a)].all id) = true := by decide

theorem test_decode_bits : ([
  reads true false [0x14#8, 0x10#8, 0x81#8] (.clb (.dir 0x10#8) (.byte 0x81#8)),
  reads false false [0x0C#8, 0x00#8, 0x10#8, 0x01#8, 0x80#8] (.seb (.abs 0x1000#16) (.word 0x8001#16)),
  reads true true [0xC2#8, 0x30#8] (.clp 0x30#8),
  reads false false [0xE2#8, 0x09#8] (.sep 0x09#8),
  reads true true [0x18#8] .clc,
  reads false false [0x58#8] .cli,
  reads true false [0xD8#8] .clm,
  reads false false [0xB8#8] .clv,
  reads false false [0x38#8] .sec,
  reads false false [0x78#8] .sei,
  reads false false [0xF8#8] .sem].all id) = true := by decide

theorem test_decode_jumps : ([
  reads false false [0x6C#8, 0xFF#8, 0xFF#8] (.jmp (.ind 0xFFFF#16)),
  reads false false [0x22#8, 0x00#8, 0x90#8, 0x12#8] (.jsr (.absL 0x129000#24)),
  reads false false [0x82#8, 0x00#8, 0x80#8] (.bra (.long 0x8000#16)),
  reads false false [0x3C#8, 0x00#8, 0x20#8, 0x01#8, 0x80#8, 0xFA#8] (.bbc (.abs 0x2000#16) (.word 0x8001#16) 0xFA#8),
  reads true false [0x24#8, 0x10#8, 0xC0#8, 0x10#8] (.bbs (.dir 0x10#8) (.byte 0xC0#8) 0x10#8),
  reads false false [0x90#8, 0x05#8] (.bcc 0x05#8),
  reads false false [0xB0#8, 0xFB#8] (.bcs 0xFB#8),
  reads false false [0xF0#8, 0x7F#8] (.beq 0x7F#8),
  reads false false [0x30#8, 0x80#8] (.bmi 0x80#8),
  reads false false [0xD0#8, 0xF5#8] (.bne 0xF5#8),
  reads false false [0x10#8, 0x02#8] (.bpl 0x02#8),
  reads false false [0x50#8, 0x10#8] (.bvc 0x10#8),
  reads false false [0x70#8, 0x10#8] (.bvs 0x10#8),
  reads false false [0x60#8] .rts,
  reads false false [0x6B#8] .rtl,
  reads false false [0x40#8] .rti].all id) = true := by decide

theorem test_decode_special : ([
  reads true false [0x00#8, 0x55#8] (.brk 0x55#8),
  reads false false [0xEA#8] .nop,
  reads false false [0xDB#8] .stp,
  reads false false [0xCB#8] .wit].all id) = true := by decide

/-- The 14 memory modes of LDA (R107, R162), with A and with B (prefix 42h). -/
theorem test_decode_modes : ([
  ([0xA5#8, 0x12#8], Mode.dir 0x12#8),
  ([0xB5#8, 0x12#8], Mode.dirX 0x12#8),
  ([0xB2#8, 0x12#8], Mode.dirInd 0x12#8),
  ([0xA1#8, 0x12#8], Mode.dirXInd 0x12#8),
  ([0xB1#8, 0x12#8], Mode.dirIndY 0x12#8),
  ([0xA7#8, 0x12#8], Mode.dirIndL 0x12#8),
  ([0xB7#8, 0x12#8], Mode.dirIndLY 0x12#8),
  ([0xAD#8, 0x34#8, 0x12#8], Mode.abs 0x1234#16),
  ([0xBD#8, 0x34#8, 0x12#8], Mode.absX 0x1234#16),
  ([0xB9#8, 0x34#8, 0x12#8], Mode.absY 0x1234#16),
  ([0xAF#8, 0x56#8, 0x34#8, 0x12#8], Mode.absL 0x123456#24),
  ([0xBF#8, 0x56#8, 0x34#8, 0x12#8], Mode.absLX 0x123456#24),
  ([0xA3#8, 0x12#8], Mode.sr 0x12#8),
  ([0xB3#8, 0x12#8], Mode.srIndY 0x12#8)].all fun p => reads false false p.1 (.lda .a (.mem p.2)) &&
    reads false false (0x42#8 :: p.1) (.lda .b (.mem p.2))) = true := by decide

/-- The table of 00_scope.md and 30_encoding.md: 253 codes in table 1, 138 in table 2, 70 in table 3. -/
theorem test_codeCounts : ((List.range 256).filter fun b => definedCode true b 0).length = 253 ∧
    ((List.range 256).filter fun b => definedCode true 0x42 b).length = 138 ∧
    ((List.range 256).filter fun b => definedCode true 0x89 b).length = 70 := by decide +kernel

/-- R97: a prefix is not repeated; R106: 89h 00h is no code; R3: the 7750 codes are none elsewhere (T247 to T251). -/
theorem test_undefinedCodes : ([(true, [0x02#8, 0x00#8]), (true, [0x42#8, 0xEA#8]), (true, [0x89#8, 0x00#8]),
    (true, [0x42#8, 0x42#8]), (false, [0x89#8, 0x89#8]), (false, [0x42#8, 0x08#8]), (false, [0x89#8, 0x8B#8])].all fun p =>
    refusal (step { blank with
      plat := { Platform.default with series7750 := p.1 }, mem := placeBytes [] 0x008000#24 p.2 }) ==
      some (.illegalOpcode 0x008000#24 (p.2.take (if p.2.head? == some 0x02#8 then 1 else 2)))) = true := by decide

/-- opcode_table.json numbers a prefixed code with the prefix in bits 15 to 8. -/
theorem test_decodeTableWord : decodeTableWord 8 0xEA = some .nop ∧ decodeTableWord 16 0x4248 = some .phb ∧
    decodeTableWord 16 0x8928 = some .xab := by decide

/-- A word placed after reset runs as the first instruction. -/
theorem test_withFetchWord : (match step (State.reset.withFetchWord 16 0x89C2) with
    | .next t => some (t.dt, t.next)
    | .fault _ => none
    | .refused _ => none) = some (0x00#8, 0x000003#24) := by decide

/-! ## One step of each instruction -/

/-- T4: LDA A,20H with DPR=FFF0h: operand in bank 1. -/
theorem test_lda :
    (ran { blank with
        dpr := 0xFFF0#16, ps := PS.ofWord 0x0004#16
        mem := placeBytes [] 0x010010#24 [0xCD#8, 0xAB#8] }
      [0xA5#8, 0x20#8]).map
      (fun t => (t.a, t.ps.toWord, t.next)) =
      some (0xABCD#16, 0x0084#16, 0x008002#24) := by decide

/-- T16: LDM #1234H,2000H,X, m=0. -/
theorem test_ldm :
    (ran { blank with
        x := 0x0010#16, dt := 0x01#8, ps := PS.ofWord 0x0004#16 }
      [0x9E#8, 0x00#8, 0x20#8, 0x34#8, 0x12#8]).map
      (fun t => (t.ps.toWord, t.bytesFrom 0x012010#24 2, t.next)) =
      some (0x0004#16, [0x34#8, 0x12#8], 0x008005#24) := by decide

/-- T17: LDT #7EH: no flags. -/
theorem test_ldt :
    (ran { blank with ps := PS.ofWord 0x0006#16 } [0x89#8, 0xC2#8, 0x7E#8]).map
      (fun t => (t.dt, t.ps.toWord, t.next)) =
      some (0x7E#8, 0x0006#16, 0x008003#24) := by decide

/-- T18: LDX #00H, x=1: XH kept, Z. -/
theorem test_ldx :
    (ran { blank with x := 0x12FF#16, ps := PS.ofWord 0x0014#16 } [0xA2#8, 0x00#8]).map
      (fun t => (t.x, t.ps.toWord, t.next)) =
      some (0x1200#16, 0x0016#16, 0x008002#24) := by decide

/-- T20: LDY 2000H,X, x=1. -/
theorem test_ldy :
    (ran { blank with
        x := 0x0003#16, y := 0xAA00#16, ps := PS.ofWord 0x0014#16
        mem := placeBytes [] 0x002003#24 [0x7F#8] }
      [0xBC#8, 0x00#8, 0x20#8]).map
      (fun t => (t.y, t.ps.toWord, t.next)) =
      some (0xAA7F#16, 0x0014#16, 0x008003#24) := by decide

/-- T21: STA A,2000H, m=0: low byte first; no flags. -/
theorem test_sta :
    (ran { blank with a := 0xBEEF#16, ps := PS.ofWord 0x0086#16 } [0x8D#8, 0x00#8, 0x20#8]).map
      (fun t => (t.ps.toWord, t.bytesFrom 0x002000#24 2, t.next)) =
      some (0x0086#16, [0xEF#8, 0xBE#8], 0x008003#24) := by decide

/-- T27: STX 02H,Y, x=0. -/
theorem test_stx :
    (ran { blank with
        x := 0x12AB#16, y := 0x0010#16, dpr := 0x0100#16, ps := PS.ofWord 0x0004#16 }
      [0x96#8, 0x02#8]).map
      (fun t => (t.ps.toWord, t.bytesFrom 0x000112#24 2, t.next)) =
      some (0x0004#16, [0xAB#8, 0x12#8], 0x008002#24) := by decide

/-- T29: STY 10H,X. -/
theorem test_sty :
    (ran { blank with
        x := 0x0001#16, y := 0x00C3#16, dpr := 0x0100#16, ps := PS.ofWord 0x0014#16 }
      [0x94#8, 0x10#8]).map
      (fun t => (t.ps.toWord, t.bytesFrom 0x000111#24 1, t.next)) =
      some (0x0014#16, [0xC3#8], 0x008002#24) := by decide

/-- T30: TAD: 16 bits whatever m; no flags. -/
theorem test_tad :
    (ran { blank with a := 0x8000#16, ps := PS.ofWord 0x0026#16 } [0x5B#8]).map
      (fun t => (t.dpr, t.ps.toWord, t.next)) =
      some (0x8000#16, 0x0026#16, 0x008001#24) := by decide

/-- T31: TAS, m=1: 16 bits. -/
theorem test_tas :
    (ran { blank with a := 0x02FF#16, ps := PS.ofWord 0x0024#16 } [0x1B#8]).map
      (fun t => (t.sp, t.ps.toWord, t.next)) =
      some (0x02FF#16, 0x0024#16, 0x008001#24) := by decide

/-- T33: TAX, x=1, m=0: XL only, flags on 8 bits. -/
theorem test_tax :
    (ran { blank with a := 0x1200#16, x := 0x5577#16, ps := PS.ofWord 0x0014#16 } [0xAA#8]).map
      (fun t => (t.x, t.ps.toWord, t.next)) =
      some (0x5500#16, 0x0016#16, 0x008001#24) := by decide

/-- T34: TAY, x=1. -/
theorem test_tay :
    (ran { blank with a := 0x00FF#16, y := 0x1100#16, ps := PS.ofWord 0x0014#16 } [0xA8#8]).map
      (fun t => (t.y, t.ps.toWord, t.next)) =
      some (0x11FF#16, 0x0094#16, 0x008001#24) := by decide

/-- T35: TBD. -/
theorem test_tbd :
    (ran { blank with b := 0x3400#16, ps := PS.ofWord 0x0004#16 } [0x42#8, 0x5B#8]).map
      (fun t => (t.dpr, t.ps.toWord, t.next)) =
      some (0x3400#16, 0x0004#16, 0x008002#24) := by decide

/-- T36: TBS. -/
theorem test_tbs :
    (ran { blank with b := 0x0FFF#16, ps := PS.ofWord 0x0004#16 } [0x42#8, 0x1B#8]).map
      (fun t => (t.sp, t.ps.toWord, t.next)) =
      some (0x0FFF#16, 0x0004#16, 0x008002#24) := by decide

/-- T37: TBX, x=0: zero. -/
theorem test_tbx :
    (ran { blank with b := 0x0000#16, x := 0x1234#16, ps := PS.ofWord 0x0004#16 } [0x42#8, 0xAA#8]).map
      (fun t => (t.x, t.ps.toWord, t.next)) =
      some (0x0000#16, 0x0006#16, 0x008002#24) := by decide

/-- T38: TBY, x=1. -/
theorem test_tby :
    (ran { blank with b := 0x1280#16, y := 0x0000#16, ps := PS.ofWord 0x0014#16 } [0x42#8, 0xA8#8]).map
      (fun t => (t.y, t.ps.toWord, t.next)) =
      some (0x0080#16, 0x0094#16, 0x008002#24) := by decide

/-- T40: TDA, m=1: DPRL only. -/
theorem test_tda :
    (ran { blank with a := 0x7777#16, dpr := 0x8100#16, ps := PS.ofWord 0x0024#16 } [0x7B#8]).map
      (fun t => (t.a, t.ps.toWord, t.next)) =
      some (0x7700#16, 0x0026#16, 0x008001#24) := by decide

/-- T41: TDB, m=0. -/
theorem test_tdb :
    (ran { blank with dpr := 0x0001#16, ps := PS.ofWord 0x0004#16 } [0x42#8, 0x7B#8]).map
      (fun t => (t.b, t.ps.toWord, t.next)) =
      some (0x0001#16, 0x0004#16, 0x008002#24) := by decide

/-- T42: TSA, m=0. -/
theorem test_tsa :
    (ran { blank with sp := 0x01FF#16, ps := PS.ofWord 0x0004#16 } [0x3B#8]).map
      (fun t => (t.a, t.ps.toWord, t.next)) =
      some (0x01FF#16, 0x0004#16, 0x008001#24) := by decide

/-- T43: TSB, m=1: SL only. -/
theorem test_tsb :
    (ran { blank with b := 0x4400#16, sp := 0x0180#16, ps := PS.ofWord 0x0024#16 } [0x42#8, 0x3B#8]).map
      (fun t => (t.b, t.ps.toWord, t.next)) =
      some (0x4480#16, 0x00A4#16, 0x008002#24) := by decide

/-- T45: TSX, x=1. -/
theorem test_tsx :
    (ran { blank with x := 0x9955#16, sp := 0x0200#16, ps := PS.ofWord 0x0014#16 } [0xBA#8]).map
      (fun t => (t.x, t.ps.toWord, t.next)) =
      some (0x9900#16, 0x0016#16, 0x008001#24) := by decide

/-- T47: TXS, x=1: SH becomes 00h. -/
theorem test_txs :
    (ran { blank with x := 0x12F0#16, sp := 0x0345#16, ps := PS.ofWord 0x0014#16 } [0x9A#8]).map
      (fun t => (t.sp, t.ps.toWord, t.next)) =
      some (0x00F0#16, 0x0014#16, 0x008001#24) := by decide

/-- T49: TXY, x=1: YH kept. -/
theorem test_txy :
    (ran { blank with x := 0x1200#16, y := 0x3456#16, ps := PS.ofWord 0x0014#16 } [0x9B#8]).map
      (fun t => (t.y, t.ps.toWord, t.next)) =
      some (0x3400#16, 0x0016#16, 0x008001#24) := by decide

/-- T51: TXA, m=0, x=1: AH becomes 00h, flags on 16 bits. -/
theorem test_txa :
    (ran { blank with a := 0xFFFF#16, x := 0x1280#16, ps := PS.ofWord 0x0014#16 } [0x8A#8]).map
      (fun t => (t.a, t.ps.toWord, t.next)) =
      some (0x0080#16, 0x0014#16, 0x008001#24) := by decide

/-- T53: TXB, m=0, x=1: BH becomes 00h. -/
theorem test_txb :
    (ran { blank with b := 0xFFFF#16, x := 0xFF00#16, ps := PS.ofWord 0x0014#16 } [0x42#8, 0x8A#8]).map
      (fun t => (t.b, t.ps.toWord, t.next)) =
      some (0x0000#16, 0x0016#16, 0x008002#24) := by decide

/-- T54: TYA, m=1, x=1. -/
theorem test_tya :
    (ran { blank with a := 0x12FF#16, y := 0x0000#16, ps := PS.ofWord 0x0034#16 } [0x98#8]).map
      (fun t => (t.a, t.ps.toWord, t.next)) =
      some (0x1200#16, 0x0036#16, 0x008001#24) := by decide

/-- T55: TYB, m=0, x=0. -/
theorem test_tyb :
    (ran { blank with b := 0x0000#16, y := 0x7FFF#16, ps := PS.ofWord 0x0004#16 } [0x42#8, 0x98#8]).map
      (fun t => (t.b, t.ps.toWord, t.next)) =
      some (0x7FFF#16, 0x0004#16, 0x008002#24) := by decide

/-- T56: TYX, x=0. -/
theorem test_tyx :
    (ran { blank with x := 0x1111#16, y := 0x0000#16, ps := PS.ofWord 0x0004#16 } [0xBB#8]).map
      (fun t => (t.x, t.ps.toWord, t.next)) =
      some (0x0000#16, 0x0006#16, 0x008001#24) := by decide

/-- T58: XAB, m=1: low bytes only. -/
theorem test_xab :
    (ran { blank with a := 0x1122#16, b := 0x3300#16, ps := PS.ofWord 0x0024#16 } [0x89#8, 0x28#8]).map
      (fun t => (t.a, t.b, t.ps.toWord, t.next)) =
      some (0x1100#16, 0x3322#16, 0x0026#16, 0x008002#24) := by decide

/-- T59: PSH #0FFH, m=0, x=0: 14 bytes, A first, PS last. -/
theorem test_psh :
    (ran { blank with
        a := 0x1122#16, b := 0x3344#16, x := 0x5566#16, y := 0x7788#16, sp := 0x02FF#16, dpr := 0x99AA#16, dt := 0xBB#8, ps := PS.ofWord 0x0304#16, pg := 0xCC#8 }
      [0xEB#8, 0xFF#8]).map
      (fun t => (t.sp, t.ps.toWord, t.bytesFrom 0x0002F2#24 14, t.next)) =
      some (0x02F1#16, 0x0304#16, [0x04#8, 0x03#8, 0xCC#8, 0xBB#8, 0xAA#8, 0x99#8, 0x88#8, 0x77#8, 0x66#8, 0x55#8, 0x44#8, 0x33#8, 0x22#8, 0x11#8], 0xCC8002#24) := by decide

/-- T61: PUL #81H, restored PS has m=1: only AL pulled. -/
theorem test_pul :
    (ran { blank with
        a := 0x5500#16, sp := 0x02F0#16, ps := PS.ofWord 0x0004#16
        mem := placeBytes [] 0x0002F1#24 [0x24#8, 0x00#8, 0x99#8] }
      [0xFB#8, 0x81#8]).map
      (fun t => (t.a, t.sp, t.ps.toWord, t.next)) =
      some (0x5599#16, 0x02F3#16, 0x0024#16, 0x008002#24) := by decide

/-- T64: PEA #1234H. -/
theorem test_pea :
    (ran { blank with ps := PS.ofWord 0x0004#16 } [0xF4#8, 0x34#8, 0x12#8]).map
      (fun t => (t.sp, t.ps.toWord, t.bytesFrom 0x0001FE#24 2, t.next)) =
      some (0x01FD#16, 0x0004#16, [0x34#8, 0x12#8], 0x008003#24) := by decide

/-- T65: PEI #10H: pushes M(DPR+10h, 2). -/
theorem test_pei :
    (ran { blank with
        dpr := 0x0300#16, ps := PS.ofWord 0x0024#16
        mem := placeBytes [] 0x000310#24 [0xCD#8, 0xAB#8] }
      [0xD4#8, 0x10#8]).map
      (fun t => (t.sp, t.ps.toWord, t.bytesFrom 0x0001FE#24 2, t.next)) =
      some (0x01FD#16, 0x0024#16, [0xCD#8, 0xAB#8], 0x008002#24) := by decide

/-- T67: PER #0010H at 00:FFFEh: sum wraps in 16 bits. -/
theorem test_per :
    (ran { blank with ps := PS.ofWord 0x0004#16, pc := 0xFFFE#16 } [0x62#8, 0x10#8, 0x00#8]).map
      (fun t => (t.sp, t.ps.toWord, t.bytesFrom 0x0001FE#24 2, t.next)) =
      some (0x01FD#16, 0x0004#16, [0x11#8, 0x00#8], 0x010001#24) := by decide

/-- T69: PHA, m=0 with S=0000h: high byte at 000000h, low byte at 00FFFFh. -/
theorem test_pha :
    (ran { blank with a := 0x1234#16, sp := 0x0000#16, ps := PS.ofWord 0x0004#16 } [0x48#8]).map
      (fun t => (t.sp, t.ps.toWord, t.bytesFrom 0x000000#24 1, t.bytesFrom 0x00FFFF#24 1, t.next)) =
      some (0xFFFE#16, 0x0004#16, [0x12#8], [0x34#8], 0x008001#24) := by decide

/-- T70: PHB, m=0. -/
theorem test_phb :
    (ran { blank with b := 0xA1B2#16, ps := PS.ofWord 0x0004#16 } [0x42#8, 0x48#8]).map
      (fun t => (t.sp, t.ps.toWord, t.bytesFrom 0x0001FE#24 2, t.next)) =
      some (0x01FD#16, 0x0004#16, [0xB2#8, 0xA1#8], 0x008002#24) := by decide

/-- T71: PHD. -/
theorem test_phd :
    (ran { blank with dpr := 0x1234#16, ps := PS.ofWord 0x0024#16 } [0x0B#8]).map
      (fun t => (t.sp, t.ps.toWord, t.bytesFrom 0x0001FE#24 2, t.next)) =
      some (0x01FD#16, 0x0024#16, [0x34#8, 0x12#8], 0x008001#24) := by decide

/-- T72: PHG. -/
theorem test_phg :
    (ran { blank with ps := PS.ofWord 0x0004#16, pg := 0x7E#8 } [0x4B#8]).map
      (fun t => (t.sp, t.ps.toWord, t.bytesFrom 0x0001FF#24 1, t.next)) =
      some (0x01FE#16, 0x0004#16, [0x7E#8], 0x7E8001#24) := by decide

/-- T73: PHP: bits 15 to 11 stored as 0. -/
theorem test_php :
    (ran { blank with ps := PS.ofWord 0x03A4#16 } [0x08#8]).map
      (fun t => (t.sp, t.ps.toWord, t.bytesFrom 0x0001FE#24 2, t.next)) =
      some (0x01FD#16, 0x03A4#16, [0xA4#8, 0x03#8], 0x008001#24) := by decide

/-- T74: PHT. -/
theorem test_pht :
    (ran { blank with dt := 0x7E#8, ps := PS.ofWord 0x0004#16 } [0x8B#8]).map
      (fun t => (t.sp, t.ps.toWord, t.bytesFrom 0x0001FF#24 1, t.next)) =
      some (0x01FE#16, 0x0004#16, [0x7E#8], 0x008001#24) := by decide

/-- T75: PHX, x=1. -/
theorem test_phx :
    (ran { blank with x := 0x12AB#16, ps := PS.ofWord 0x0014#16 } [0xDA#8]).map
      (fun t => (t.sp, t.ps.toWord, t.bytesFrom 0x0001FF#24 1, t.next)) =
      some (0x01FE#16, 0x0014#16, [0xAB#8], 0x008001#24) := by decide

/-- T76: PHY, x=0. -/
theorem test_phy :
    (ran { blank with y := 0x0102#16, ps := PS.ofWord 0x0004#16 } [0x5A#8]).map
      (fun t => (t.sp, t.ps.toWord, t.bytesFrom 0x0001FE#24 2, t.next)) =
      some (0x01FD#16, 0x0004#16, [0x02#8, 0x01#8], 0x008001#24) := by decide

/-- T78: PLA, m=1: AH kept, Z. -/
theorem test_pla :
    (ran { blank with
        a := 0x7711#16, sp := 0x01FE#16, ps := PS.ofWord 0x0024#16
        mem := placeBytes [] 0x0001FF#24 [0x00#8] }
      [0x68#8]).map
      (fun t => (t.a, t.sp, t.ps.toWord, t.next)) =
      some (0x7700#16, 0x01FF#16, 0x0026#16, 0x008001#24) := by decide

/-- T79: PLB, m=0. -/
theorem test_plb :
    (ran { blank with
        sp := 0x01FD#16, ps := PS.ofWord 0x0004#16
        mem := placeBytes [] 0x0001FE#24 [0x01#8, 0x00#8] }
      [0x42#8, 0x68#8]).map
      (fun t => (t.b, t.sp, t.ps.toWord, t.next)) =
      some (0x0001#16, 0x01FF#16, 0x0004#16, 0x008002#24) := by decide

/-- T80: PLD: no flags. -/
theorem test_pld :
    (ran { blank with
        sp := 0x01FD#16, ps := PS.ofWord 0x0006#16
        mem := placeBytes [] 0x0001FE#24 [0x00#8, 0x80#8] }
      [0x2B#8]).map
      (fun t => (t.sp, t.dpr, t.ps.toWord, t.next)) =
      some (0x01FF#16, 0x8000#16, 0x0006#16, 0x008001#24) := by decide

/-- T81: PLP: bits 15 to 11 ignored. -/
theorem test_plp :
    (ran { blank with
        sp := 0x01FD#16, ps := PS.ofWord 0x0004#16
        mem := placeBytes [] 0x0001FE#24 [0xE3#8, 0xFD#8] }
      [0x28#8]).map
      (fun t => (t.sp, t.ps.toWord, t.next)) =
      some (0x01FF#16, 0x05E3#16, 0x008001#24) := by decide

/-- T82: PLT: N, Z on 8 bits. -/
theorem test_plt :
    (ran { blank with
        sp := 0x01FE#16, ps := PS.ofWord 0x0004#16
        mem := placeBytes [] 0x0001FF#24 [0x80#8] }
      [0xAB#8]).map
      (fun t => (t.sp, t.dt, t.ps.toWord, t.next)) =
      some (0x01FF#16, 0x80#8, 0x0084#16, 0x008001#24) := by decide

/-- T83: PLX, x=1. -/
theorem test_plx :
    (ran { blank with
        x := 0x4400#16, sp := 0x01FE#16, ps := PS.ofWord 0x0014#16
        mem := placeBytes [] 0x0001FF#24 [0x7F#8] }
      [0xFA#8]).map
      (fun t => (t.x, t.sp, t.ps.toWord, t.next)) =
      some (0x447F#16, 0x01FF#16, 0x0014#16, 0x008001#24) := by decide

/-- T84: PLY, x=0 with S=FFFFh: low byte from 000000h, high from 000001h. -/
theorem test_ply :
    (ran { blank with
        sp := 0xFFFF#16, ps := PS.ofWord 0x0004#16
        mem := placeBytes [] 0x000000#24 [0xCD#8, 0xAB#8] }
      [0x7A#8]).map
      (fun t => (t.y, t.sp, t.ps.toWord, t.next)) =
      some (0xABCD#16, 0x0001#16, 0x0084#16, 0x008001#24) := by decide

/-- T86: MVN 02H,01H: odd count 3; the last step reads 2 bytes, writes 1. -/
theorem test_mvn :
    (ran { blank with
        a := 0x0003#16, x := 0x1000#16, y := 0x2000#16, ps := PS.ofWord 0x0004#16
        mem := placeBytes (placeBytes [] 0x011000#24 [0x01#8, 0x02#8, 0x03#8, 0x04#8]) 0x022003#24 [0xEE#8] }
      [0x54#8, 0x02#8, 0x01#8]).map
      (fun t => (t.a, t.x, t.y, t.bytesFrom 0x022000#24 3, t.next)) =
      some (0xFFFF#16, 0x1003#16, 0x2003#16, [0x01#8, 0x02#8, 0x03#8], 0x008003#24) := by decide

/-- T95: MVP 02H,01H: odd count 3. -/
theorem test_mvp :
    (ran { blank with
        a := 0x0003#16, x := 0x1002#16, y := 0x2002#16, ps := PS.ofWord 0x0004#16
        mem := placeBytes [] 0x010FFF#24 [0x00#8, 0x01#8, 0x02#8, 0x03#8] }
      [0x44#8, 0x02#8, 0x01#8]).map
      (fun t => (t.a, t.x, t.y, t.bytesFrom 0x022000#24 3, t.next)) =
      some (0xFFFF#16, 0x0FFF#16, 0x1FFF#16, [0x01#8, 0x02#8, 0x03#8], 0x008003#24) := by decide

/-- T90: MVN, Y = X + 1: a byte of a step is the one that the step before has left there. -/
theorem test_mvn_overlapping :
    (ran { blank with
        a := 0x0004#16, x := 0x0100#16, y := 0x0101#16, ps := PS.ofWord 0x0004#16
        mem := placeBytes [] 0x000100#24 [0x0A#8, 0x0B#8, 0x0C#8, 0x0D#8, 0x0E#8] }
      [0x54#8, 0x00#8, 0x00#8]).map
      (fun t => (t.a, t.x, t.y, t.bytesFrom 0x000101#24 4)) =
      some (0xFFFF#16, 0x0104#16, 0x0105#16, [0x0A#8, 0x0B#8, 0x0B#8, 0x0D#8]) := by decide

/-- T96: MVP, Y = X + 1: a correct upward move. And R242, R246, by hand: X = Y + 1, two words down from 000104h to 000103h; the
first writes 0D 0E to 000102h and 000103h, the second reads 0B 0D. -/
theorem test_mvp_overlapping :
    (ran { blank with
        a := 0x0004#16, x := 0x0103#16, y := 0x0104#16, ps := PS.ofWord 0x0004#16
        mem := placeBytes [] 0x000100#24 [0x0A#8, 0x0B#8, 0x0C#8, 0x0D#8, 0x0E#8] }
      [0x44#8, 0x00#8, 0x00#8]).map
      (fun t => (t.a, t.x, t.y, t.bytesFrom 0x000101#24 4)) =
      some (0xFFFF#16, 0x00FF#16, 0x0100#16, [0x0A#8, 0x0B#8, 0x0C#8, 0x0D#8]) ∧
    (ran { blank with
        a := 0x0004#16, x := 0x0104#16, y := 0x0103#16, ps := PS.ofWord 0x0004#16
        mem := placeBytes [] 0x000100#24 [0x0A#8, 0x0B#8, 0x0C#8, 0x0D#8, 0x0E#8] }
      [0x44#8, 0x00#8, 0x00#8]).map
      (fun t => (t.a, t.x, t.y, t.bytesFrom 0x000100#24 4)) =
      some (0xFFFF#16, 0x0100#16, 0x00FF#16, [0x0B#8, 0x0D#8, 0x0D#8, 0x0E#8]) := by decide

/-- T99: ADC A,#0000H: 7FFFh + 0 + C=1: signed overflow. -/
theorem test_adc :
    (ran { blank with a := 0x7FFF#16, ps := PS.ofWord 0x0005#16 } [0x69#8, 0x00#8, 0x00#8]).map
      (fun t => (t.a, t.ps.toWord, t.next)) =
      some (0x8000#16, 0x00C4#16, 0x008003#24) := by decide

/-- T107: SBC A,#01H, m=1: 00h - 01h: borrow (C=0). -/
theorem test_sbc :
    (ran { blank with a := 0x0000#16, ps := PS.ofWord 0x0025#16 } [0xE9#8, 0x01#8]).map
      (fun t => (t.a, t.ps.toWord, t.next)) =
      some (0x00FF#16, 0x00A4#16, 0x008002#24) := by decide

/-- T115: INC B, m=0: 7FFFh to 8000h: V not written. -/
theorem test_inc :
    (ran { blank with b := 0x7FFF#16, ps := PS.ofWord 0x0004#16 } [0x42#8, 0x3A#8]).map
      (fun t => (t.b, t.ps.toWord, t.next)) =
      some (0x8000#16, 0x0084#16, 0x008002#24) := by decide

/-- T118: DEC 10H,X, m=1. -/
theorem test_dec :
    (ran { blank with
        x := 0x0002#16, dpr := 0x0100#16, ps := PS.ofWord 0x0024#16
        mem := placeBytes [] 0x000112#24 [0x01#8] }
      [0xD6#8, 0x10#8]).map
      (fun t => (t.ps.toWord, t.bytesFrom 0x000112#24 1, t.next)) =
      some (0x0026#16, [0x00#8], 0x008002#24) := by decide

/-- T119: INX, x=1: FFh to 00h, XH kept. -/
theorem test_inx :
    (ran { blank with x := 0x12FF#16, ps := PS.ofWord 0x0014#16 } [0xE8#8]).map
      (fun t => (t.x, t.ps.toWord, t.next)) =
      some (0x1200#16, 0x0016#16, 0x008001#24) := by decide

/-- T120: INY, x=0: 7FFFh to 8000h. -/
theorem test_iny :
    (ran { blank with y := 0x7FFF#16, ps := PS.ofWord 0x0004#16 } [0xC8#8]).map
      (fun t => (t.y, t.ps.toWord, t.next)) =
      some (0x8000#16, 0x0084#16, 0x008001#24) := by decide

/-- T121: DEX, x=0: 0001h to 0000h. -/
theorem test_dex :
    (ran { blank with x := 0x0001#16, ps := PS.ofWord 0x0004#16 } [0xCA#8]).map
      (fun t => (t.x, t.ps.toWord, t.next)) =
      some (0x0000#16, 0x0006#16, 0x008001#24) := by decide

/-- T122: DEY, x=0: 0000h to FFFFh. -/
theorem test_dey :
    (ran { blank with y := 0x0000#16, ps := PS.ofWord 0x0004#16 } [0x88#8]).map
      (fun t => (t.y, t.ps.toWord, t.next)) =
      some (0xFFFF#16, 0x0084#16, 0x008001#24) := by decide

/-- T124: MPY #0FFH, m=1: FFh x FFh = FE01h; AH, BH kept. -/
theorem test_mpy :
    (ran { blank with a := 0x11FF#16, b := 0x2200#16, ps := PS.ofWord 0x0024#16 } [0x89#8, 0x09#8, 0xFF#8]).map
      (fun t => (t.a, t.b, t.ps.toWord, t.next)) =
      some (0x1101#16, 0x22FE#16, 0x00A4#16, 0x008003#24) := by decide

/-- T127: MPYS #02H, m=1: -1 x 2 = -2; C kept. -/
theorem test_mpys :
    (ran { blank with a := 0x00FF#16, b := 0x0000#16, ps := PS.ofWord 0x0025#16 } [0x89#8, 0x89#8, 0x02#8]).map
      (fun t => (t.a, t.b, t.ps.toWord, t.next)) =
      some (0x00FE#16, 0x00FF#16, 0x00A5#16, 0x008003#24) := by decide

/-- T132: DIV #07H, m=1: 0064h / 7 = 14 rem 2. -/
theorem test_div :
    (ran { blank with a := 0x1164#16, b := 0x2200#16, ps := PS.ofWord 0x0024#16 } [0x89#8, 0x29#8, 0x07#8]).map
      (fun t => (t.a, t.b, t.ps.toWord, t.next)) =
      some (0x110E#16, 0x2202#16, 0x0024#16, 0x008003#24) := by decide

/-- T136: DIVS #02H, m=1: -7 / 2 = -3 rem -1. -/
theorem test_divs :
    (ran { blank with a := 0x00F9#16, b := 0x00FF#16, ps := PS.ofWord 0x0024#16 } [0x89#8, 0xA9#8, 0x02#8]).map
      (fun t => (t.a, t.ps.toWord, t.next)) =
      some (0x00FD#16, 0x00A4#16, 0x008003#24) := by decide

/-- T142: AND A,#3CH, m=1. -/
theorem test_and :
    (ran { blank with a := 0x12F0#16, ps := PS.ofWord 0x0024#16 } [0x29#8, 0x3C#8]).map
      (fun t => (t.a, t.ps.toWord, t.next)) =
      some (0x1230#16, 0x0024#16, 0x008002#24) := by decide

/-- T145: ORA A,#0001H. -/
theorem test_ora :
    (ran { blank with a := 0x8000#16, ps := PS.ofWord 0x0004#16 } [0x09#8, 0x01#8, 0x00#8]).map
      (fun t => (t.a, t.ps.toWord, t.next)) =
      some (0x8001#16, 0x0084#16, 0x008003#24) := by decide

/-- T148: EOR A,#0FFFFH: complement. -/
theorem test_eor :
    (ran { blank with a := 0x00FF#16, ps := PS.ofWord 0x0004#16 } [0x49#8, 0xFF#8, 0xFF#8]).map
      (fun t => (t.a, t.ps.toWord, t.next)) =
      some (0xFF00#16, 0x0084#16, 0x008003#24) := by decide

/-- T149: CMP A,#2000H: less: N=1, C=0; V kept. -/
theorem test_cmp :
    (ran { blank with a := 0x1000#16, ps := PS.ofWord 0x0044#16 } [0xC9#8, 0x00#8, 0x20#8]).map
      (fun t => (t.ps.toWord, t.next)) =
      some (0x00C4#16, 0x008003#24) := by decide

/-- T153: CPX #80H, x=1: XH ignored. -/
theorem test_cpx :
    (ran { blank with x := 0x1280#16, ps := PS.ofWord 0x0014#16 } [0xE0#8, 0x80#8]).map
      (fun t => (t.ps.toWord, t.next)) =
      some (0x0017#16, 0x008002#24) := by decide

/-- T155: CPY #0001H. -/
theorem test_cpy :
    (ran { blank with y := 0x0000#16, ps := PS.ofWord 0x0004#16 } [0xC0#8, 0x01#8, 0x00#8]).map
      (fun t => (t.ps.toWord, t.next)) =
      some (0x0084#16, 0x008003#24) := by decide

/-- T158: ASL B, m=0: 8000h: zero with carry. -/
theorem test_asl :
    (ran { blank with b := 0x8000#16, ps := PS.ofWord 0x0004#16 } [0x42#8, 0x0A#8]).map
      (fun t => (t.b, t.ps.toWord, t.next)) =
      some (0x0000#16, 0x0007#16, 0x008002#24) := by decide

/-- T161: ASR 10H, m=1: 01h. -/
theorem test_asr :
    (ran { blank with
        dpr := 0x0100#16, ps := PS.ofWord 0x0024#16
        mem := placeBytes [] 0x000110#24 [0x01#8] }
      [0x89#8, 0x06#8, 0x10#8]).map
      (fun t => (t.ps.toWord, t.bytesFrom 0x000110#24 1, t.next)) =
      some (0x0027#16, [0x00#8], 0x008003#24) := by decide

/-- T163: LSR 10H,X, m=0: 8000h. -/
theorem test_lsr :
    (ran { blank with
        x := 0x0002#16, dpr := 0x0100#16, ps := PS.ofWord 0x0004#16
        mem := placeBytes [] 0x000112#24 [0x00#8, 0x80#8] }
      [0x56#8, 0x10#8]).map
      (fun t => (t.ps.toWord, t.bytesFrom 0x000112#24 2, t.next)) =
      some (0x0004#16, [0x00#8, 0x40#8], 0x008002#24) := by decide

/-- T164: ROL A, m=0, C=1: 8000h. -/
theorem test_rol :
    (ran { blank with a := 0x8000#16, ps := PS.ofWord 0x0005#16 } [0x2A#8]).map
      (fun t => (t.a, t.ps.toWord, t.next)) =
      some (0x0001#16, 0x0005#16, 0x008001#24) := by decide

/-- T166: ROR A, m=1, C=1: 01h. -/
theorem test_ror :
    (ran { blank with a := 0x0001#16, ps := PS.ofWord 0x0025#16 } [0x6A#8]).map
      (fun t => (t.a, t.ps.toWord, t.next)) =
      some (0x0080#16, 0x00A5#16, 0x008001#24) := by decide

/-- T170: RLA #0011H, m=0: 17 mod 16 = 1. -/
theorem test_rla :
    (ran { blank with a := 0x8000#16, ps := PS.ofWord 0x0004#16 } [0x89#8, 0x49#8, 0x11#8, 0x00#8]).map
      (fun t => (t.a, t.ps.toWord, t.next)) =
      some (0x0001#16, 0x0004#16, 0x008004#24) := by decide

/-- T174: EXTS B, m=0: FF7Fh. -/
theorem test_exts :
    (ran { blank with b := 0xFF7F#16, ps := PS.ofWord 0x0004#16 } [0x42#8, 0x8B#8]).map
      (fun t => (t.b, t.ps.toWord, t.next)) =
      some (0x007F#16, 0x0004#16, 0x008002#24) := by decide

/-- T176: EXTZ A: 12FFh: N=0. -/
theorem test_extz :
    (ran { blank with a := 0x12FF#16, ps := PS.ofWord 0x0084#16 } [0x89#8, 0xAB#8]).map
      (fun t => (t.a, t.ps.toWord, t.next)) =
      some (0x00FF#16, 0x0004#16, 0x008002#24) := by decide

/-- T178: CLB #81H,10H, m=1: no flags. -/
theorem test_clb :
    (ran { blank with
        dpr := 0x0100#16, ps := PS.ofWord 0x0024#16
        mem := placeBytes [] 0x000110#24 [0xFF#8] }
      [0x14#8, 0x10#8, 0x81#8]).map
      (fun t => (t.ps.toWord, t.bytesFrom 0x000110#24 1, t.next)) =
      some (0x0024#16, [0x7E#8], 0x008003#24) := by decide

/-- T180: SEB #8001H,1000H, m=0. -/
theorem test_seb :
    (ran { blank with
        ps := PS.ofWord 0x0004#16
        mem := placeBytes [] 0x001000#24 [0x00#8, 0x00#8] }
      [0x0C#8, 0x00#8, 0x10#8, 0x01#8, 0x80#8]).map
      (fun t => (t.ps.toWord, t.bytesFrom 0x001000#24 2, t.next)) =
      some (0x0004#16, [0x01#8, 0x80#8], 0x008005#24) := by decide

/-- T182: CLP #30H: m, x cleared; IPL kept. -/
theorem test_clp :
    (ran { blank with ps := PS.ofWord 0x03FF#16 } [0xC2#8, 0x30#8]).map
      (fun t => (t.ps.toWord, t.next)) =
      some (0x03CF#16, 0x008002#24) := by decide

/-- T184: SEP #09H. -/
theorem test_sep :
    (ran { blank with ps := PS.ofWord 0x0004#16 } [0xE2#8, 0x09#8]).map
      (fun t => (t.ps.toWord, t.next)) =
      some (0x000D#16, 0x008002#24) := by decide

/-- T186: CLC. -/
theorem test_clc :
    (ran { blank with ps := PS.ofWord 0x07FF#16 } [0x18#8]).map
      (fun t => (t.ps.toWord, t.next)) =
      some (0x07FE#16, 0x008001#24) := by decide

/-- T187: CLI. -/
theorem test_cli :
    (ran { blank with ps := PS.ofWord 0x0004#16 } [0x58#8]).map
      (fun t => (t.ps.toWord, t.next)) =
      some (0x0000#16, 0x008001#24) := by decide

/-- T188: CLM. -/
theorem test_clm :
    (ran { blank with ps := PS.ofWord 0x0024#16 } [0xD8#8]).map
      (fun t => (t.ps.toWord, t.next)) =
      some (0x0004#16, 0x008001#24) := by decide

/-- T189: CLV. -/
theorem test_clv :
    (ran { blank with ps := PS.ofWord 0x0044#16 } [0xB8#8]).map
      (fun t => (t.ps.toWord, t.next)) =
      some (0x0004#16, 0x008001#24) := by decide

/-- T190: SEC. -/
theorem test_sec :
    (ran { blank with ps := PS.ofWord 0x0004#16 } [0x38#8]).map
      (fun t => (t.ps.toWord, t.next)) =
      some (0x0005#16, 0x008001#24) := by decide

/-- T191: SEI. -/
theorem test_sei :
    (ran { blank with ps := PS.ofWord 0x0300#16 } [0x78#8]).map
      (fun t => (t.ps.toWord, t.next)) =
      some (0x0304#16, 0x008001#24) := by decide

/-- T192: SEM. -/
theorem test_sem :
    (ran { blank with ps := PS.ofWord 0x0004#16 } [0xF8#8]).map
      (fun t => (t.ps.toWord, t.next)) =
      some (0x0024#16, 0x008001#24) := by decide

/-- T196: JMP (0FFFFH) in bank 12h: pointer bytes at 12FFFFh, 130000h. -/
theorem test_jmp :
    (ran { blank with
        ps := PS.ofWord 0x0004#16, pg := 0x12#8
        mem := placeBytes [] 0x12FFFF#24 [0x34#8, 0x12#8] }
      [0x6C#8, 0xFF#8, 0xFF#8]).map
      (fun t => (t.ps.toWord, t.next)) =
      some (0x0004#16, 0x121234#24) := by decide

/-- T200: JSRL 129000H in bank 34h: pushes PG then PC. -/
theorem test_jsr :
    (ran { blank with ps := PS.ofWord 0x0004#16, pg := 0x34#8 } [0x22#8, 0x00#8, 0x90#8, 0x12#8]).map
      (fun t => (t.sp, t.ps.toWord, t.bytesFrom 0x0001FD#24 3, t.next)) =
      some (0x01FC#16, 0x0004#16, [0x04#8, 0x80#8, 0x34#8], 0x129000#24) := by decide

/-- T209: BRAL offset 8000h: -32768. -/
theorem test_bra :
    (ran { blank with ps := PS.ofWord 0x0004#16, pg := 0x02#8, pc := 0x0000#16 } [0x82#8, 0x00#8, 0x80#8]).map
      (fun t => (t.ps.toWord, t.next)) =
      some (0x0004#16, 0x018003#24) := by decide

/-- T223: BBC #8001H,2000H,0FAH, m=0: taken, to itself. -/
theorem test_bbc :
    (ran { blank with
        ps := PS.ofWord 0x0004#16, pc := 0x1000#16
        mem := placeBytes [] 0x002000#24 [0xFE#8, 0x7F#8] }
      [0x3C#8, 0x00#8, 0x20#8, 0x01#8, 0x80#8, 0xFA#8]).map
      (fun t => (t.ps.toWord, t.next)) =
      some (0x0004#16, 0x001000#24) := by decide

/-- T224: BBS #0C0H,10H,10H, m=1: all bits 1: taken. -/
theorem test_bbs :
    (ran { blank with
        dpr := 0x0100#16, ps := PS.ofWord 0x0024#16, pc := 0x1000#16
        mem := placeBytes [] 0x000110#24 [0xC1#8] }
      [0x24#8, 0x10#8, 0xC0#8, 0x10#8]).map
      (fun t => (t.ps.toWord, t.next)) =
      some (0x0024#16, 0x001014#24) := by decide

/-- T212: BCC not taken. -/
theorem test_bcc :
    (ran { blank with ps := PS.ofWord 0x0005#16 } [0x90#8, 0x05#8]).map
      (fun t => (t.ps.toWord, t.next)) =
      some (0x0005#16, 0x008002#24) := by decide

/-- T213: BCS taken. -/
theorem test_bcs :
    (ran { blank with ps := PS.ofWord 0x0005#16 } [0xB0#8, 0xFB#8]).map
      (fun t => (t.ps.toWord, t.next)) =
      some (0x0005#16, 0x007FFD#24) := by decide

/-- T214: BEQ taken. -/
theorem test_beq :
    (ran { blank with ps := PS.ofWord 0x0006#16 } [0xF0#8, 0x7F#8]).map
      (fun t => (t.ps.toWord, t.next)) =
      some (0x0006#16, 0x008081#24) := by decide

/-- T216: BMI taken across a bank start. -/
theorem test_bmi :
    (ran { blank with ps := PS.ofWord 0x0084#16, pg := 0x01#8, pc := 0x0000#16 } [0x30#8, 0x80#8]).map
      (fun t => (t.ps.toWord, t.next)) =
      some (0x0084#16, 0x00FF82#24) := by decide

/-- T217: BNE taken. -/
theorem test_bne :
    (ran { blank with ps := PS.ofWord 0x0004#16, pc := 0xC013#16 } [0xD0#8, 0xF5#8]).map
      (fun t => (t.ps.toWord, t.next)) =
      some (0x0004#16, 0x00C00A#24) := by decide

/-- T218: BPL taken across a bank end. -/
theorem test_bpl :
    (ran { blank with ps := PS.ofWord 0x0004#16, pc := 0xFFFD#16 } [0x10#8, 0x02#8]).map
      (fun t => (t.ps.toWord, t.next)) =
      some (0x0004#16, 0x010001#24) := by decide

/-- T219: BVC not taken. -/
theorem test_bvc :
    (ran { blank with ps := PS.ofWord 0x0044#16 } [0x50#8, 0x10#8]).map
      (fun t => (t.ps.toWord, t.next)) =
      some (0x0044#16, 0x008002#24) := by decide

/-- T220: BVS taken. -/
theorem test_bvs :
    (ran { blank with ps := PS.ofWord 0x0044#16 } [0x70#8, 0x10#8]).map
      (fun t => (t.ps.toWord, t.next)) =
      some (0x0044#16, 0x008012#24) := by decide

/-- T203: RTS. -/
theorem test_rts :
    (ran { blank with
        sp := 0x01FD#16, ps := PS.ofWord 0x0004#16, pc := 0x9000#16
        mem := placeBytes [] 0x0001FE#24 [0x03#8, 0x80#8] }
      [0x60#8]).map
      (fun t => (t.sp, t.ps.toWord, t.next)) =
      some (0x01FF#16, 0x0004#16, 0x008003#24) := by decide

/-- T204: RTL. -/
theorem test_rtl :
    (ran { blank with
        sp := 0x01FC#16, ps := PS.ofWord 0x0004#16, pg := 0x12#8, pc := 0x9000#16
        mem := placeBytes [] 0x0001FD#24 [0x04#8, 0x80#8, 0x34#8] }
      [0x6B#8]).map
      (fun t => (t.sp, t.ps.toWord, t.next)) =
      some (0x01FF#16, 0x0004#16, 0x348004#24) := by decide

/-- T205: RTI: PS, PC, PG; bits 15 to 11 of the pulled PS ignored. -/
theorem test_rti :
    (ran { blank with
        sp := 0x01FA#16, ps := PS.ofWord 0x0304#16, pc := 0xC000#16
        mem := placeBytes [] 0x0001FB#24 [0x24#8, 0xF8#8, 0x03#8, 0x80#8, 0x01#8] }
      [0x40#8]).map
      (fun t => (t.sp, t.ps.toWord, t.next)) =
      some (0x01FF#16, 0x0024#16, 0x018003#24) := by decide

/-- T228: BRK in bank 01h: second byte skipped, whatever it is. -/
theorem test_brk :
    (ran { blank with
        sp := 0x01FF#16, ps := PS.ofWord 0x0321#16, pg := 0x01#8
        mem := placeBytes [] 0x00FFFA#24 [0x00#8, 0xC0#8] }
      [0x00#8, 0x55#8]).map
      (fun t => (t.sp, t.ps.toWord, t.bytesFrom 0x0001FB#24 4, t.next)) =
      some (0x01FA#16, 0x0325#16, [0x21#8, 0x03#8, 0x02#8, 0x80#8], 0x00C000#24) := by decide

/-- T229: NOP. -/
theorem test_nop :
    (ran { blank with ps := PS.ofWord 0x0004#16 } [0xEA#8]).map
      (fun t => (t.ps.toWord, t.next)) =
      some (0x0004#16, 0x008001#24) := by decide

/-- T230: STP. -/
theorem test_stp :
    (ran { blank with ps := PS.ofWord 0x0000#16 } [0xDB#8]).map
      (fun t => (t.ps.toWord, t.next, t.run)) =
      some (0x0000#16, 0x008001#24, .stopped) := by decide

/-- T231: WIT. -/
theorem test_wit :
    (ran { blank with ps := PS.ofWord 0x0000#16 } [0xCB#8]).map
      (fun t => (t.ps.toWord, t.next, t.run)) =
      some (0x0000#16, 0x008001#24, .waiting) := by decide

/-- T106: ADC A,#0001H decimal, m=0: 1999 + 0001 + C=1 = 2001. -/
theorem test_adc_decimal :
    (ran { blank with a := 0x1999#16, ps := PS.ofWord 0x000D#16 } [0x69#8, 0x01#8, 0x00#8]).map
      (fun t => (t.a, t.ps.c, t.next)) =
      some (0x2001#16, false, 0x008003#24) := by decide

/-- T113: SBC A,#0001H decimal, m=0, C=0: 1000 - 1 - 1 = 0998. -/
theorem test_sbc_decimal :
    (ran { blank with a := 0x1000#16, ps := PS.ofWord 0x000C#16 } [0xE9#8, 0x01#8, 0x00#8]).map
      (fun t => (t.a, t.ps.z, t.ps.c, t.next)) =
      some (0x0998#16, false, true, 0x008003#24) := by decide

/-- T201: JSR (2000H,X): push, then pointer read. -/
theorem test_jsr_indirect :
    (ran { blank with
        x := 0x0002#16, ps := PS.ofWord 0x0014#16
        mem := placeBytes [] 0x002002#24 [0x00#8, 0xA0#8] }
      [0xFC#8, 0x00#8, 0x20#8]).map
      (fun t => (t.sp, t.ps.toWord, t.bytesFrom 0x0001FE#24 2, t.next)) =
      some (0x01FD#16, 0x0014#16, [0x03#8, 0x80#8], 0x00A000#24) := by decide

/-- T1: LDA A,#80H, m=1: AH kept, N from bit 7. -/
theorem test_lda_byte :
    (ran { blank with a := 0x1234#16, ps := PS.ofWord 0x0024#16 } [0xA9#8, 0x80#8]).map
      (fun t => (t.a, t.ps.toWord, t.next)) =
      some (0x1280#16, 0x00A4#16, 0x008002#24) := by decide

/-! ## Boundaries -/

/-- A product with three sources, a ROM at the vectors, a device at 002000h to 002003h that takes words, addresses with
nothing, one of which refuses, a ROM that refuses, and block transfers that can be interrupted. -/
def product : Platform :=
  { Platform.default with
    map := [{ base := 0xFF00, size := 0x100, kind := .rom false }, { base := 0x2000, size := 4, kind := .device 0 true },
      { base := 0x3000, size := 1, kind := .unmapped true }, { base := 0x3001, size := 1, kind := .unmapped false },
      { base := 0x3002, size := 1, kind := .rom true }]
    sources := [{ vector := 0xFFE0#16, maskable := true }, { vector := 0xFFE2#16, maskable := true },
      { vector := 0xFFE4#16, maskable := false }]
    maskedRequestWakes := true, blockMoveInterruptible := true }

/-- A request of level 3, pending at the next boundary of a state in which it is acceptable: X1. -/
def requested : State :=
  { blank with
    plat := product, sp := 0x01FF#16, ps := PS.ofWord 0x0161#16, pg := 0x12#8
    mem := placeBytes [] 0x00FFE0#24 [0x00#8, 0x90#8], inputs := [{ reset := none, pending := [⟨0, some 3#3⟩] }] }

/-- X1: the entry, its frame, and IPL. -/
theorem test_interruptEntry : (match step requested with
    | .next t => some (t.next, t.ps.toWord, t.sp, t.bytesFrom 0x0001FB#24 5)
    | .fault _ => none
    | .refused _ => none) =
    some (0x009000#24, 0x0365#16, 0x01FA#16, [0x61#8, 0x01#8, 0x00#8, 0x80#8, 0x12#8]) := by decide

/-- A store to the byte after itself, with m = 1 (R421). -/
def storesAhead : State :=
  { blank with a := 0x00EA#16, ps := PS.ofWord 0x0024#16, mem := placeBytes [] 0x008000#24 [0x8D#8, 0x03#8, 0x80#8] }

/-- Execution at a byte that was changed after it may have been prefetched. -/
def runsStale : State := { blank with pc := 0x8003#16, stale := [0x008003#24] }

/-- R82, R421: the store itself has its effect, and the byte is noted; running on into it is refused. -/
theorem test_storeAhead : (match step storesAhead with
    | .next t => some (t.next, t.read8 0x008003#24, t.stale)
    | .fault _ => none
    | .refused _ => none) = some (0x008003#24, 0xEA#8, [0x008003#24]) := by decide

theorem test_storeIntoPrefetch : refusal (step runsStale) = some .storeIntoPrefetch := by decide

/-- R82, R421: a transfer of control or an interrupt entry comes first, and the byte is plain memory. -/
theorem test_jumpEmptiesQueue : (ran { blank with stale := [0x009000#24] } [0x4C#8, 0x00#8, 0x90#8]).map
    (fun t => (t.next, t.stale)) = some (0x009000#24, []) := by decide

theorem test_entryEmptiesQueue : (match step { requested with stale := [0x008000#24, 0x009000#24] } with
    | .next t => some (t.next, t.stale)
    | .fault _ => none
    | .refused _ => none) = some (0x009000#24, []) := by decide

/-! ## Devices and addresses with nothing (R65, R76, R77, D6), from the rules by hand -/

/-- INC 2000H with m = 1: one read of the device, then one write. -/
theorem test_deviceReadThenWrite : ∃ t, exec (.inc (.mem (.abs 0x2000#16)))
      { blank with plat := product, ps := PS.ofWord 0x0024#16 } = .next t ∧
    t.bus.devices = Config.deviceWrite 0 (Config.deviceRead 0 0 0 0x002000#24 .w8).1 0 0x002000#24 .w8
      (ofByte (loByte (plusOne .w8 (ofByte (loByte (Config.deviceRead 0 0 0 0x002000#24 .w8).2))))) := ⟨_, rfl, rfl⟩

/-- LDA 2002H with m = 0 is one access of the device, LDA 2001H two: the low byte first. -/
theorem test_deviceWord : ∃ t, exec (.lda .a (.mem (.abs 0x2002#16))) { blank with plat := product } = .next t ∧
    t.bus.devices = (Config.deviceRead 0 0 0 0x002002#24 .w16).1 := ⟨_, rfl, rfl⟩

theorem test_deviceWord_odd : ∃ t, exec (.lda .a (.mem (.abs 0x2001#16))) { blank with plat := product } = .next t ∧
    t.bus.devices = (Config.deviceRead 0 (Config.deviceRead 0 0 0 0x002001#24 .w8).1 0 0x002002#24 .w8).1 := ⟨_, rfl, rfl⟩

/-- R233: a push and a pull of 16 bits at an even S - 1, or S + 1, are one access of the device; elsewhere they are two. -/
theorem test_pushDeviceWord : ∃ t, exec (.pea 0x1234#16) { blank with plat := product, sp := 0x2003#16 } = .next t ∧
    t.bus.devices = Config.deviceWrite 0 0 0 0x002002#24 .w16 0x1234#16 ∧ t.sp = 0x2001#16 ∧
    t.bus.written = [0x002003#24, 0x002002#24] := ⟨_, rfl, rfl, rfl, rfl⟩

theorem test_pushDeviceBytes : ∃ t, exec (.pea 0x1234#16) { blank with plat := product, sp := 0x2002#16 } = .next t ∧
    t.bus.devices = Config.deviceWrite 0 (Config.deviceWrite 0 0 0 0x002002#24 .w8 0x0012#16) 0 0x002001#24 .w8 0x0034#16 ∧
    t.sp = 0x2000#16 := ⟨_, rfl, rfl, rfl⟩

theorem test_pullDeviceWord : ∃ t, exec .pld { blank with plat := product, sp := 0x2001#16 } = .next t ∧
    t.dpr = (Config.deviceRead 0 0 0 0x002002#24 .w16).2 ∧ t.sp = 0x2003#16 ∧
    t.bus.devices = (Config.deviceRead 0 0 0 0x002002#24 .w16).1 := ⟨_, rfl, rfl, rfl, rfl⟩

theorem test_pullDeviceBytes : ∃ t, exec .pld { blank with plat := product, sp := 0x2000#16 } = .next t ∧
    t.bus.devices = (Config.deviceRead 0 (Config.deviceRead 0 0 0 0x002001#24 .w8).1 0 0x002002#24 .w8).1 :=
  ⟨_, rfl, rfl⟩

/-- R421: a device may have changed, by a read or by a write elsewhere, without a byte of the window being written. -/
theorem test_deviceByteChanged :
    byteChanged { blank with plat := product } { blank with
      plat := product, bus := { devices := 7, draws := 0, denied := none, written := [0x002003#24] } } 0x002002#24 = false ∧
    byteChanged { blank with plat := product } { blank with
      plat := product, bus := { devices := 7, draws := 0, denied := none, written := [0x002003#24] } } 0x002003#24 = true := by
  decide

/-- Where nothing is, two reads take two free values; a refusing address refuses the step. -/
theorem test_unmappedRead : ∃ t, exec (.lda .a (.mem (.abs 0x3001#16)))
      { blank with plat := product, ps := PS.ofWord 0x0024#16 } = .next t ∧
    t.a = 0x00#8 ++ loByte (ofByte (Config.freeByte 0)) ∧ t.bus.draws = 1 ∧ t.bus.denied = none := ⟨_, rfl, rfl, rfl, rfl⟩

theorem test_accessRefused : refusal (step { blank with
      plat := product, mem := placeBytes [] 0x008000#24 [0xAD#8, 0x00#8, 0x30#8] }) =
    some (.accessRefused 0x003000#24) := by decide

theorem test_romWriteRefused : refusal (step { blank with
      plat := product, ps := PS.ofWord 0x0024#16, mem := placeBytes [] 0x008000#24 [0x8D#8, 0x02#8, 0x30#8] }) =
    some (.accessRefused 0x003002#24) := by decide

/-- T92, as a state in which the block passes the end of the bank. -/
def crossing : State :=
  { blank with
    a := 0x0003#16, x := 0xFFFE#16, y := 0x2000#16, mem := placeBytes [] 0x008000#24 [0x54#8, 0x02#8, 0x01#8] }

theorem test_blockCrossesBank : refusal (step crossing) = some .blockCrossesBank := by decide

/-- The values of a reset; of the three RAM bytes two are at one address, one names a ROM. -/
def resetArgs : ResetArgs :=
  { a := 0x1111#16, b := 0x2222#16, x := 0x3333#16, y := 0x4444#16, sp := 0x5555#16, c := true, z := true, v := true
    n := true, ram := [(0x1000, 0x11#8), (0x1001000, 0x77#8), (0xFFFE, 0x12#8)], devices := 5 }

/-- A reset at a boundary leaves the vector's address in PC and I = 1 (R410). -/
def resetting : State :=
  { blank with
    plat := product, run := .stopped, mem := placeBytes [] 0x00FFFE#24 [0x00#8, 0xC0#8]
    inputs := [{ reset := some resetArgs, pending := [⟨0, some 3#3⟩] }, quiet] }

theorem test_resetArrives : (match step resetting with
    | .next t => some (t.next, t.run, t.ps.i, t.read8 0x001000#24)
    | .fault _ => none
    | .refused _ => none) = some (0x00C000#24, .running, true, 0x77#8) := by decide

/-! ## Witnesses: a state that meets the hypotheses of each statement that has any -/

theorem witness_ResetValues : State.reset.inReset = true := rfl

theorem witness_ResetArrives : resetting.MemOk ∧ resetting.inReset = false ∧
    resetting.inputs = { reset := some resetArgs, pending := [⟨0, some 3#3⟩] } :: [quiet] := by
  refine ⟨?_, rfl, rfl⟩
  unfold State.MemOk; decide

/-- A byte of ROM that `args.ram` names, and a byte of RAM that it does not. -/
theorem witness_ResetArrives_memory : hasMemory resetting.plat 0x00FFFE#24 = true ∧
    regionKind resetting.plat 0x00FFFE#24 ≠ .ram ∧
    regionKind resetting.plat 0x001001#24 = .ram ∧ ∀ c ∈ resetArgs.ram, addrOfNat c.1 ≠ 0x001001#24 := by decide

/-- The last entry at 001000h, named as 1001000h. -/
theorem witness_ResetArrives_ram : resetArgs.ram = [(0x1000, 0x11#8)] ++ (0x1001000, 0x77#8) :: [(0xFFFE, 0x12#8)] ∧
    (∀ c ∈ [((0xFFFE : Nat), 0x12#8)], addrOfNat c.1 ≠ addrOfNat 0x1001000) ∧
    regionKind resetting.plat (addrOfNat 0x1001000) = .ram := by decide

theorem witness_DecodeOfEncode :
    Instr.wellFormed ⟨true, false, true⟩ (.bbs (.abs 0xFFFF#16) (.word 0x8001#16) 0x80#8) = true ∧
    Instr.wellFormed ⟨false, true, false⟩ (.lda .b (.mem (.absLX 0xFFFFFF#24))) = true ∧
    Instr.wellFormed ⟨true, true, true⟩ (.divs (.imm (.byte 0xFF#8))) = true := by decide

/-- The state of T245. -/
def undefinedCode : State := { blank with mem := placeBytes [] 0x008000#24 [0x02#8] }

theorem witness_UndefinedCodesRefused : undefinedCode.Executes ∧
    undefinedCode.beginStep.window = 0x02#8 :: 0x00#8 :: [0x00#8, 0x00#8, 0x00#8, 0x00#8] ∧
    definedCode undefinedCode.plat.series7750 0x02 0x00 = false := ⟨⟨rfl, rfl, rfl, rfl⟩, by decide, by decide⟩

theorem witness_UndefinedCodesRefused_defined : blank.Executes ∧
    blank.beginStep.window = 0x00#8 :: 0x00#8 :: [0x00#8, 0x00#8, 0x00#8, 0x00#8] ∧
    definedCode blank.plat.series7750 0x00 0x00 = true := ⟨⟨rfl, rfl, rfl, rfl⟩, by decide, by decide⟩

/-- The clause of a next state: BRK from the bytes 00 00. -/
theorem witness_StepRunsDecodedInstruction : blank.Executes ∧
    decode blank.ctx blank.beginStep.window = .ok (.brk 0x00#8, [0x00#8, 0x00#8, 0x00#8, 0x00#8]) ∧
    blank.runsIntoStore 2 = false ∧ ∃ t, exec (.brk 0x00#8) (blank.beginStep.advance 2) = .next t :=
  ⟨⟨rfl, rfl, rfl, rfl⟩, rfl, rfl, _, rfl⟩

/-- The clause of a changed byte: the last byte of the instruction; with one byte less it is not reached. -/
theorem witness_StepRunsDecodedInstruction_store : runsStale.Executes ∧
    decode runsStale.ctx runsStale.beginStep.window = .ok (.brk 0x00#8, [0x00#8, 0x00#8, 0x00#8, 0x00#8]) ∧
    { runsStale with stale := [0x008004#24] }.runsIntoStore 2 = true ∧
    { runsStale with stale := [0x008005#24] }.runsIntoStore 2 = false :=
  ⟨⟨rfl, rfl, rfl, rfl⟩, rfl, by decide, by decide⟩

/-- The clause of a refusal. -/
theorem witness_StepRunsDecodedInstruction_refused : crossing.Executes ∧
    decode crossing.ctx crossing.beginStep.window = .ok (.mvn 0x02#8 0x01#8, [0x00#8, 0x00#8, 0x00#8]) ∧
    crossing.runsIntoStore 3 = false ∧
    exec (.mvn 0x02#8 0x01#8) (crossing.beginStep.advance 3) = .refused .blockCrossesBank :=
  ⟨⟨rfl, rfl, rfl, rfl⟩, rfl, rfl, rfl⟩

/-- The last byte of the reach is noted, the next is not; a device's byte is noted when it was written to
(test_deviceByteChanged). -/
theorem witness_PrefetchedBytesChanged :
    regionKind blank.plat 0x008007#24 = .ram ∧
    (blank.settle { blank with mem := [(0x8007, 0x01#8)] }).stale = [0x008007#24] ∧
    (blank.settle { blank with mem := [(0x8008, 0x01#8)] }).stale = [] ∧
    (blank.settle { blank with mem := [(0x8007, 0x01#8)], jumped := true }).stale = [] ∧
    regionKind product 0x002000#24 = .device 0 true ∧ regionKind product 0x00FF00#24 = .rom false ∧
    regionKind product 0x003001#24 = .unmapped false := by decide

theorem witness_OnlyBlockTransfersRefuse : exec (.mvn 0x02#8 0x01#8) crossing = .refused .blockCrossesBank ∧
    exec (.mvp 0x02#8 0x01#8) { blank with ps := PS.ofWord 0x0014#16, x := 0x0100#16 } = .refused .blockIndexHighByte :=
  ⟨rfl, rfl⟩

theorem witness_StepKeepsInvariant : State.reset.MemOk ∧ ∃ t, step State.reset = .next t := ⟨rfl, _, rfl⟩

/-- Three bytes of RAM from FFFFFFh on, and a word whose second byte is ROM. -/
theorem witness_MemoryAccess : requested.MemOk ∧ hasMemory requested.plat 0xFFFFFF#24 = true ∧
    hasMemory requested.plat (addrOfNat (0xFFFFFF + 1)) = true ∧ hasMemory requested.plat (addrOfNat (0xFFFFFF + 2)) = true ∧
    regionKind requested.plat 0xFFFFFF#24 = .ram ∧ regionKind requested.plat (addrOfNat (0xFFFFFF + 1)) = .ram ∧
    hasMemory requested.plat 0x00FEFF#24 = true ∧ hasMemory requested.plat (addrOfNat (0x00FEFF + 1)) = true := by
  refine ⟨?_, ?_⟩
  · unfold State.MemOk; decide
  · decide

/-- Each clause: the last aligned word of the device, an odd one, one that ends outside, RAM, nothing, and ROM that refuses. -/
theorem witness_BusAccess : (0x002002#24 : Addr).toNat % 2 = 0 ∧ regionKind product 0x002002#24 = .device 0 true ∧
    regionKind product (0x002002#24 + 1#24) = .device 0 true ∧
    (0x002001#24 : Addr).toNat % 2 = 1 ∧ regionKind product 0x002003#24 = .device 0 true ∧
    regionKind product (0x002003#24 + 1#24) ≠ regionKind product 0x002003#24 ∧
    regionKind product 0x003000#24 = .unmapped true ∧ regionKind product 0x003001#24 = .unmapped false ∧
    regionKind product 0x003002#24 = .rom true := by decide

theorem witness_BusAccess_other : (∀ k, regionKind blank.plat 0x002002#24 ≠ .device k true) ∧ MemoryOnly blank.plat ∧
    blank.bus.denied = none ∧
    { blank with bus := { devices := 0, draws := 0, denied := some 0x003000#24, written := [] } }.bus.denied = some 0x003000#24 :=
  ⟨fun _ h => RegionKind.noConfusion h, fun _ => .inl rfl, rfl, rfl⟩

/-- A push at S = 0000h, whose second byte is at 00FFFFh. -/
theorem witness_PushAndPull : blank.MemOk ∧ { blank with sp := 0x0000#16 }.sp.toNat % 2 = 0 ∧
    stackIsRam { blank with sp := 0x0000#16 }.plat { blank with sp := 0x0000#16 }.sp (Width.bits .w16 / 8) :=
  ⟨rfl, rfl, fun _ _ => rfl⟩

/-- The clauses for devices: the last aligned word of the device, and words that end or begin outside it. -/
theorem witness_PushAndPull_device : (0x2003#16 : Word).toNat % 2 = 1 ∧
    regionKind product (mkAddr 0x00#8 (0x2003#16 - 1#16)) = .device 0 true ∧
    regionKind product (mkAddr 0x00#8 0x2003#16) = .device 0 true ∧ (0x2001#16 : Word).toNat % 2 = 1 ∧
    regionKind product (mkAddr 0x00#8 (0x2001#16 + 1#16)) = .device 0 true ∧
    regionKind product (mkAddr 0x00#8 (0x2001#16 + 2#16)) = .device 0 true ∧
    regionKind product (mkAddr 0x00#8 0x2004#16) ≠ regionKind product (mkAddr 0x00#8 (0x2004#16 - 1#16)) ∧
    regionKind product (mkAddr 0x00#8 (0x2002#16 + 2#16)) ≠ regionKind product (mkAddr 0x00#8 (0x2002#16 + 1#16)) ∧
    ∀ k, regionKind blank.plat (mkAddr 0x00#8 (0x2003#16 - 1#16)) ≠ .device k true :=
  ⟨by decide, by decide, by decide, by decide, by decide, by decide, by decide, by decide,
    fun _ h => RegionKind.noConfusion h⟩

theorem witness_StoreInstructions : requested.MemOk := by unfold State.MemOk; decide
theorem witness_SinglePushes : requested.MemOk := by unfold State.MemOk; decide
theorem witness_ComputedPushes : requested.MemOk := by unfold State.MemOk; decide
theorem witness_PushRegisterSet : requested.MemOk := by unfold State.MemOk; decide
theorem witness_IncrementDecrement : requested.MemOk := by unfold State.MemOk; decide
theorem witness_ShiftInstructions : requested.MemOk := by unfold State.MemOk; decide
theorem witness_BitInstructions : requested.MemOk := by unfold State.MemOk; decide
theorem witness_CallInstructions : requested.MemOk := by unfold State.MemOk; decide
theorem witness_BreakInstruction : requested.MemOk := by unfold State.MemOk; decide

/-- All registers but PG, with a stack that wraps from 000000h to 00FFFFh. -/
theorem witness_PullUndoesPush : blank.MemOk ∧ (0xBF#8 : Byte).getLsbD 6 = false ∧
    stackIsRam { blank with sp := 0x0005#16 }.plat { blank with sp := 0x0005#16 }.sp 13 := ⟨rfl, by decide, fun _ _ => rfl⟩

/-- X + count = 10000h is moved and 10001h is not (T91, T92); MVP likewise at 0 (T97, T98). -/
theorem witness_BlockTransferRefusals : crossing.x.toNat = crossing.xNat ∧ crossing.y.toNat = crossing.yNat ∧
    refusal (exec (.mvn 0x02#8 0x01#8) crossing) = some .blockCrossesBank ∧
    refusal (exec (.mvn 0x02#8 0x01#8) { crossing with a := 0x0002#16 }) = none ∧
    refusal (exec (.mvp 0x02#8 0x01#8) { crossing with x := 0x0001#16 }) = some .blockCrossesBank ∧
    refusal (exec (.mvp 0x02#8 0x01#8) { crossing with x := 0x0002#16 }) = none := by decide

/-- XH = 00h is moved and XH = 01h is refused, with x = 1 (T93). -/
theorem witness_BlockTransferRefusals_index :
    refusal (exec (.mvn 0x02#8 0x01#8) { blank with ps := PS.ofWord 0x0014#16, x := 0x0100#16 }) =
      some .blockIndexHighByte ∧
    refusal (exec (.mvn 0x02#8 0x01#8) { blank with ps := PS.ofWord 0x0014#16, x := 0x00FF#16 }) = none := by decide

theorem witness_MoveBlockUp : crossing.MemOk ∧ crossing.plat.blockMoveInterruptible = false ∧
    { crossing with a := 0x0002#16 }.x.toNat = { crossing with a := 0x0002#16 }.xNat ∧
    { crossing with a := 0x0002#16 }.y.toNat = { crossing with a := 0x0002#16 }.yNat ∧
    { crossing with a := 0x0002#16 }.xNat + lowNat .w16 { crossing with a := 0x0002#16 }.a ≤ 2 ^ Width.bits .w16 ∧
    { crossing with a := 0x0002#16 }.yNat + lowNat .w16 { crossing with a := 0x0002#16 }.a ≤ 2 ^ Width.bits .w16 ∧
    regionKind crossing.plat (addrOfNat (0x02 * 65536 + crossing.yNat + 1)) = .ram ∧
    hasMemory crossing.plat (addrOfNat (0x01 * 65536 + crossing.xNat + 1)) = true := by
  refine ⟨?_, ?_⟩
  · unfold State.MemOk; decide
  · decide

/-- The other way in which no request can end it: an interruptible product and an empty script; and blocks that overlap the
harmless way. -/
theorem witness_MoveBlockUp_script : { blank with plat := product }.inputs = [] ∧
    { blank with y := 0x0000#16 }.yNat ≤ blank.xNat ∧ blank.xNat + 0 ≤ blank.yNat := by decide

/-- T90 and its mirror: the last byte of the count lies in both blocks. -/
theorem witness_MoveBlock_overlapping : { blank with x := 0x0100#16, y := 0x0101#16 }.yNat =
      { blank with x := 0x0100#16, y := 0x0101#16 }.xNat + 1 ∧ 0 < 1 ∧ 1 < lowNat .w16 0x0004#16 ∧
    { blank with x := 0x0104#16, y := 0x0103#16 }.xNat = { blank with x := 0x0104#16, y := 0x0103#16 }.yNat + 1 ∧
    MemoryOnly blank.plat := ⟨by decide, by decide, by decide, by decide, fun _ => .inl rfl⟩

theorem witness_MoveBlockDown : blank.MemOk ∧ blank.plat.blockMoveInterruptible = false ∧
    { blank with a := 0x0003#16, x := 0x0002#16, y := 0x0002#16 }.x.toNat =
      { blank with a := 0x0003#16, x := 0x0002#16, y := 0x0002#16 }.xNat ∧
    lowNat .w16 0x0003#16 ≤ { blank with a := 0x0003#16, x := 0x0002#16, y := 0x0002#16 }.xNat + 1 ∧
    lowNat .w16 0x0003#16 ≤ { blank with a := 0x0003#16, x := 0x0002#16, y := 0x0002#16 }.yNat + 1 ∧
    regionKind blank.plat (addrOfNat (0x02 * 65536 + 2 - 2)) = .ram ∧
    hasMemory blank.plat (addrOfNat (0x01 * 65536 + 2 - 2)) = true := by
  refine ⟨rfl, ?_⟩
  decide

/-- The least count with a boundary between two steps. -/
theorem witness_MoveBlockInterrupted : requested.plat.blockMoveInterruptible = true ∧
    requested.arriving.reset = none ∧ choose requested.plat requested.ps requested.arriving.pending = some ⟨0, some 3#3⟩ ∧
    { requested with a := 0x0003#16 }.x.toNat = { requested with a := 0x0003#16 }.xNat ∧
    { requested with a := 0x0003#16 }.y.toNat = { requested with a := 0x0003#16 }.yNat ∧
    2 < lowNat requested.wm 0x0003#16 ∧ requested.xNat + lowNat requested.wm 0x0003#16 ≤ 2 ^ requested.wx.bits ∧
    requested.yNat + lowNat requested.wm 0x0003#16 ≤ 2 ^ requested.wx.bits ∧
    lowNat requested.wm 0x0003#16 ≤ { requested with x := 0x0002#16 }.xNat + 1 ∧
    lowNat requested.wm 0x0003#16 ≤ { requested with y := 0x0002#16 }.yNat + 1 := by decide

theorem witness_BinaryAddSubtract : blank.ps.d = false := rfl

/-- 9999 and 0001 with D = 1; and a digit above 9, which no clause on the result takes in. -/
theorem witness_DecimalAddSubtract : { blank with ps := PS.ofWord 0x0008#16 }.ps.d = true ∧ isBcd .w16 0x9999#16 = true ∧
    isBcd .w16 0x0001#16 = true ∧ isBcd .w16 0x000A#16 = false := by decide

/-- Quotients FFFFh and 10000h: the last in range and the first that overflows. -/
theorem witness_DivideUnsigned : blank.operandNat .w16 (.imm (.word 0x0001#16)) ≠ 0 ∧
    (lowNat .w16 0x0000#16 * 2 ^ Width.bits .w16 + lowNat .w16 0xFFFF#16) / 1 < 2 ^ Width.bits .w16 ∧
    ¬ (lowNat .w16 0x0001#16 * 2 ^ Width.bits .w16 + lowNat .w16 0x0000#16) / 1 < 2 ^ Width.bits .w16 := by decide

/-- Quotients -127 and -128 with m = 1: the last in the printed range and the first outside it. -/
theorem witness_DivideSigned : blank.operandNat .w8 (.imm (.byte 0x01#8)) ≠ 0 ∧
    (signedNat .w8 0xFF * 2 ^ Width.bits .w8 + 0x81).tdiv (signedNat .w8 0x01) = -127 ∧
    (signedNat .w8 0x00 * 2 ^ Width.bits .w8 + 0x80).tdiv (signedNat .w8 0xFF) = -128 := by decide

theorem witness_ZeroDivision : blank.MemOk ∧ blank.operandNat blank.wm (.imm (.word 0x0000#16)) = 0 := ⟨rfl, by decide⟩

/-- Levels 3 and 5 and a non-maskable request: the non-maskable one; without it the higher level; of equal ones the first
source. -/
theorem witness_InterruptChoice : product.sources[2]? = some { vector := 0xFFE4#16, maskable := false } ∧
    choose product (PS.ofWord 0x0000#16) [⟨0, some 3#3⟩, ⟨2, none⟩, ⟨1, some 5#3⟩] = some ⟨2, none⟩ ∧
    choose product (PS.ofWord 0x0000#16) [⟨0, some 3#3⟩, ⟨1, some 5#3⟩] = some ⟨1, some 5#3⟩ ∧
    choose product (PS.ofWord 0x0000#16) [⟨1, some 3#3⟩, ⟨0, some 3#3⟩] = some ⟨0, some 3#3⟩ ∧
    choose product (PS.ofWord 0x0300#16) [⟨0, some 3#3⟩] = none ∧
    choose product (PS.ofWord 0x0200#16) [⟨0, some 3#3⟩] = some ⟨0, some 3#3⟩ := by decide

theorem witness_InterruptEntry : requested.MemOk ∧ requested.inReset = false ∧ requested.arriving.reset = none ∧
    choose requested.plat requested.ps requested.arriving.pending = some ⟨0, some 3#3⟩ ∧
    requested.plat.sources[0]? = some { vector := 0xFFE0#16, maskable := true } := by
  refine ⟨?_, ?_⟩
  · unfold State.MemOk; decide
  · decide

theorem witness_ReturnUndoesEntry : blank.MemOk ∧
    stackIsRam { blank with sp := 0x0002#16 }.plat { blank with sp := 0x0002#16 }.sp 5 := ⟨rfl, fun _ _ => rfl⟩

/-- Waiting with I = 1 and a masked request, where it wakes; and stopped with nothing pending, where it does not. -/
theorem witness_WaitingStaysUnlessWoken :
    { requested with run := .waiting, ps := PS.ofWord 0x0165#16 }.inReset = false ∧
    { requested with run := .waiting, ps := PS.ofWord 0x0165#16 }.run ≠ .running ∧
    { requested with run := .waiting, ps := PS.ofWord 0x0165#16 }.arriving.reset = none ∧
    choose requested.plat (PS.ofWord 0x0165#16) requested.arriving.pending = none ∧
    requested.plat.maskedRequestWakes = true ∧ (⟨0, some 3#3⟩ : Request) ∈ requested.arriving.pending ∧
    { blank with run := .stopped }.run ≠ .running ∧ blank.plat.maskedRequestWakes = false := by decide

end Sys2Proof.Tests
end

section
/-! Register transfers (42_register_transfer.md): what a transfer to X, to Y and to an accumulator does (R180), and the
statements about the transfer instructions. -/

namespace Sys2Proof.Machine

/-! ## A transfer, for each kind of destination -/

/-- An instruction that is a transfer of `v` to X (R180). -/
theorem exec_toX_effect {i : Instr} {s : State} {v : Word} (h : exec i s = .next (s.toX v)) :
    ∃ t, exec i s = .next t ∧ LowBits s.wx s.x t.x v.toNat ∧ t.ps = s.ps.nz s.wx v.toNat ∧
      t = { s with x := t.x, ps := t.ps } ∧ SameBytes s t :=
  ⟨s.toX v, h, s.setX_low v, setNZ_eq_nz s.ps s.wx v v.toNat rfl, rfl, SameBytes.of_mem rfl rfl⟩

/-- An instruction that is a transfer of `v` to Y (R180). -/
theorem exec_toY_effect {i : Instr} {s : State} {v : Word} (h : exec i s = .next (s.toY v)) :
    ∃ t, exec i s = .next t ∧ LowBits s.wx s.y t.y v.toNat ∧ t.ps = s.ps.nz s.wx v.toNat ∧
      t = { s with y := t.y, ps := t.ps } ∧ SameBytes s t :=
  ⟨s.toY v, h, s.setY_low v, setNZ_eq_nz s.ps s.wx v v.toNat rfl, rfl, SameBytes.of_mem rfl rfl⟩

/-- An instruction that is a transfer of `v` to the accumulator `r` (R180); `n` is the number that the spec moves. -/
theorem exec_toAcc_effect {i : Instr} {s : State} {r : Acc} {v : Word} {n : Nat} (h : exec i s = .next (s.toAcc r v))
    (hn : v.toNat = n) :
    ∃ t, exec i s = .next t ∧ LowBits s.wm (s.acc r) (t.acc r) n ∧ t.ps = s.ps.nz s.wm n ∧ OnlyAcc r s t ∧
      SameBytes s t := by
  subst hn
  exact ⟨s.toAcc r v, h, s.setAcc_low r s.wm v, setNZ_eq_nz s.ps s.wm v v.toNat rfl,
    s.onlyAcc_setAcc (s.toAcc r v) r s.wm v rfl, SameBytes.of_mem rfl rfl⟩

/-- XAB: each accumulator takes the low bits of the other as it was before, N and Z are those of A afterwards (R201). -/
theorem exec_xab_effect (s : State) :
    ∃ t, exec .xab s = .next t ∧ LowBits s.wm s.a t.a s.b.toNat ∧ LowBits s.wm s.b t.b s.a.toNat ∧
      t.ps = s.ps.nz s.wm s.b.toNat ∧ t = { s with a := t.a, b := t.b, ps := t.ps } ∧ SameBytes s t :=
  ⟨((s.setAcc .a s.wm s.b).setAcc .b s.wm s.a).setNZ s.wm s.b, rfl, merge_lowBits s.wm s.a s.b,
    merge_lowBits s.wm s.b s.a, setNZ_eq_nz s.ps s.wm s.b s.b.toNat rfl, rfl, SameBytes.of_mem rfl rfl⟩

/-! ## The statements -/

/-- Settles O20: each of the seven is a transfer to X or to Y of the register that its mnemonic names. -/
theorem transferToIndex : Obligations.TransferToIndex := by
  refine ⟨rfl, rfl, rfl, rfl, rfl, rfl, rfl, fun s => ⟨?toX, ?toY⟩⟩ <;>
    simp only [List.forall_mem_cons, List.not_mem_nil, false_implies, implies_true, and_true]
  case toX =>
    exact ⟨exec_toX_effect (i := .tax) rfl, exec_toX_effect (i := .tbx) rfl, exec_toX_effect (i := .tsx) rfl,
      exec_toX_effect (i := .tyx) rfl⟩
  case toY =>
    exact ⟨exec_toY_effect (i := .tay) rfl, exec_toY_effect (i := .tby) rfl, exec_toY_effect (i := .txy) rfl⟩

/-- Settles O21: eight transfers to an accumulator, those from X and Y of the index at its width, and the exchange. -/
theorem transferToAccumulator : Obligations.TransferToAccumulator := by
  refine ⟨rfl, rfl, rfl, rfl, rfl, rfl, rfl, rfl, rfl, fun s => ⟨?_, exec_xab_effect s⟩⟩
  simp only [List.forall_mem_cons, List.not_mem_nil, false_implies, implies_true, and_true]
  exact ⟨exec_toAcc_effect (i := .tda) rfl rfl, exec_toAcc_effect (i := .tdb) rfl rfl,
    exec_toAcc_effect (i := .tsa) rfl rfl, exec_toAcc_effect (i := .tsb) rfl rfl,
    exec_toAcc_effect (i := .txa) rfl s.indexX_toNat, exec_toAcc_effect (i := .txb) rfl s.indexX_toNat,
    exec_toAcc_effect (i := .tya) rfl s.indexY_toNat, exec_toAcc_effect (i := .tyb) rfl s.indexY_toNat⟩

/-- Settles O19: four copies of all 16 bits; TXS copies X at the width of flag x, which is `indexX`. -/
theorem transferToDprOrS : Obligations.TransferToDprOrS :=
  ⟨rfl, rfl, rfl, rfl, rfl, fun s =>
    ⟨rfl, rfl, rfl, rfl, { s with sp := s.indexX }, rfl, rfl, s.indexX_toNat⟩⟩

end Sys2Proof.Machine
end

section
/-! Pulls of one register (43_stack.md): the state after a pull to an accumulator, to X and to Y with its flags (R211), and
the statement about PLA, PLB, PLX and PLY. -/

namespace Sys2Proof.Machine

/-! ## A pull with N and Z, for each kind of destination -/

/-- N and Z of the value pulled (R38). -/
theorem State.setNZ_topW (s : State) (w : Width) : s.ps.setNZ w (s.topW w) = s.ps.nz w (s.pulledNat [] w) :=
  setNZ_eq_nz s.ps w (s.topW w) (s.pulledNat [] w) (by rw [s.topW_toNat])

/-- A pull to the accumulator `r` (R225, R226): the pull itself moves S and the bus only, so the write is one of `s`. -/
theorem State.pullAcc_record (s : State) (r : Acc) (w : Width) :
    ((s.dropW w).setAcc r w (s.topW w)).setNZ w (s.topW w) =
      { s.setAcc r w (s.topW w) with
        ps := s.ps.nz w (s.pulledNat [] w), sp := s.sp + BitVec.ofNat 16 (w.bits / 8)
        bus := (s.afterPulls [w]).bus } := by
  rw [s.dropW_record, ← s.setNZ_topW]; rfl

/-- A pull to X (R230), at the width that flag x selects before it. -/
theorem State.pullX_record (s : State) :
    ((s.dropW s.wx).setX (s.topW s.wx)).setNZ s.wx (s.topW s.wx) =
      { s.setX (s.topW s.wx) with
        ps := s.ps.nz s.wx (s.pulledNat [] s.wx), sp := s.sp + BitVec.ofNat 16 (s.wx.bits / 8)
        bus := (s.afterPulls [s.wx]).bus } := by
  rw [s.dropW_record, ← s.setNZ_topW]; rfl

/-- A pull to Y (R231), at the width that flag x selects before it. -/
theorem State.pullY_record (s : State) :
    ((s.dropW s.wx).setY (s.topW s.wx)).setNZ s.wx (s.topW s.wx) =
      { s.setY (s.topW s.wx) with
        ps := s.ps.nz s.wx (s.pulledNat [] s.wx), sp := s.sp + BitVec.ofNat 16 (s.wx.bits / 8)
        bus := (s.afterPulls [s.wx]).bus } := by
  rw [s.dropW_record, ← s.setNZ_topW]; rfl

/-! ## The statement -/

/-- Settles O24: each of the four is a pull to one register with its flags, and the value written to the register's low bits
is the one pulled. -/
theorem pullAccumulatorsAndIndexes : Obligations.PullAccumulatorsAndIndexes := by
  refine ⟨rfl, rfl, rfl, rfl, fun s => ⟨?pla, ?plb, ?plx, ?ply⟩⟩
  case pla =>
    exact ⟨_, congrArg Host.Outcome.next (s.pullAcc_record .a s.wm), s.setAcc_low .a s.wm (s.topW s.wm), rfl, rfl,
      SameBytes.of_mem rfl rfl⟩
  case plb =>
    exact ⟨_, congrArg Host.Outcome.next (s.pullAcc_record .b s.wm), s.setAcc_low .b s.wm (s.topW s.wm), rfl, rfl,
      SameBytes.of_mem rfl rfl⟩
  case plx =>
    exact ⟨_, congrArg Host.Outcome.next s.pullX_record, s.setX_low (s.topW s.wx), rfl, rfl, SameBytes.of_mem rfl rfl⟩
  case ply =>
    exact ⟨_, congrArg Host.Outcome.next s.pullY_record, s.setY_low (s.topW s.wx), rfl, rfl, SameBytes.of_mem rfl rfl⟩

end Sys2Proof.Machine
end

section
/-! Addition, subtraction and index steps (45_arithmetic.md): what `addBin` and `subBin` give in numbers (R250), what ADC and
SBC leave in binary mode (R252, R253), and INX, INY, DEX and DEY (R256 to R259). -/

namespace Sys2Proof.Machine

/-! ## Binary sums in numbers (R250) -/

@[simp] theorem addBin_result_toNat (w : Width) (a b : Word) (c : Bool) :
    (addBin w a b c).result.toNat = (a.toNat + b.toNat + c.toNat) % 2 ^ w.bits := ofNatW_toNat w _

theorem addBin_carry (w : Width) (a b : Word) (c : Bool) :
    (addBin w a b c).carry = decide (2 ^ w.bits ≤ a.toNat + b.toNat + c.toNat) := rfl

/-- The two readings of a number of `w` bits as a signed one (R11). -/
theorem signedNat_cases (w : Width) (v : Nat) :
    (signedNat w v = v ∧ v < 2 ^ (w.bits - 1)) ∨ (signedNat w v = v - 2 ^ w.bits ∧ 2 ^ (w.bits - 1) ≤ v) := by
  cases w
  case w8 => exact signedNat_w8 v
  case w16 => exact signedNat_w16 v

theorem topBit_of_lt {w : Width} {v : Word} (h : v.toNat < 2 ^ w.bits) :
    topBit w v = decide (2 ^ (w.bits - 1) ≤ v.toNat) := by
  rw [topBit_eq, lowNat_of_lt h]

/-- Like signs of the operands and another sign of the result: the signed sum has left the range. -/
theorem addBin_overflow {w : Width} {a b : Word} (ha : a.toNat < 2 ^ w.bits) (hb : b.toNat < 2 ^ w.bits) (c : Bool) :
    (addBin w a b c).overflow =
      decide (signedNat w a.toNat + signedNat w b.toNat + c.toNat < -2 ^ (w.bits - 1) ∨
        2 ^ (w.bits - 1) ≤ signedNat w a.toNat + signedNat w b.toNat + c.toNat) := by
  have hr := addBin_result_toNat w a b c
  have result_lt : (addBin w a b c).result.toNat < 2 ^ w.bits := hr ▸ Nat.mod_lt _ (Nat.two_pow_pos _)
  have carry_le := c.toNat_le
  have signed_a := signedNat_cases w a.toNat
  have signed_b := signedNat_cases w b.toNat
  change (topBit w a == topBit w b && topBit w (addBin w a b c).result != topBit w a) = _
  rw [topBit_of_lt ha, topBit_of_lt hb, topBit_of_lt result_lt, hr, Bool.eq_iff_iff]
  simp only [Bool.and_eq_true, beq_iff_eq, bne_iff_ne, ne_eq, decide_eq_decide, decide_eq_true_eq]
  cases w <;> simp only [Width.bits] at ha hb signed_a signed_b ⊢ <;> omega

/-- The 1's complement at width `w`. -/
theorem trunc_not_toNat {w : Width} {b : Word} (hb : b.toNat < 2 ^ w.bits) :
    (trunc w (~~~b)).toNat = 2 ^ w.bits - 1 - b.toNat := by
  rw [trunc_toNat, lowNat, BitVec.toNat_not]
  cases w <;> simp only [Width.bits] at hb ⊢ <;> omega

/-- The 1's complement of a signed number `v` is `-v - 1`. -/
theorem signedNat_complement {w : Width} {b : Nat} (hb : b < 2 ^ w.bits) :
    signedNat w (2 ^ w.bits - 1 - b) = -signedNat w b - 1 := by
  have reading := signedNat_cases w b
  have reading_complement := signedNat_cases w (2 ^ w.bits - 1 - b)
  cases w <;> simp only [Width.bits] at hb reading reading_complement ⊢ <;> omega

/-- Adding the complement and the carry is taking away `b` and the borrow, up to one `2^w`. -/
theorem complement_total {w : Width} {b : Word} (hb : b.toNat < 2 ^ w.bits) (a : Nat) (c : Bool) :
    a + (trunc w (~~~b)).toNat + c.toNat = a + 2 ^ w.bits - (b.toNat + (!c).toNat) := by
  rw [trunc_not_toNat hb]
  cases c <;> simp only [Bool.not_true, Bool.not_false, Bool.toNat_true, Bool.toNat_false] <;> omega

theorem subBin_result_toNat {w : Width} {b : Word} (hb : b.toNat < 2 ^ w.bits) (a : Word) (c : Bool) :
    (subBin w a b c).result.toNat = (a.toNat + 2 ^ w.bits - (b.toNat + (!c).toNat)) % 2 ^ w.bits := by
  rw [subBin, addBin_result_toNat, complement_total hb]

/-- C is 1 when there is no borrow. -/
theorem subBin_carry {w : Width} {b : Word} (hb : b.toNat < 2 ^ w.bits) (a : Word) (c : Bool) :
    (subBin w a b c).carry = decide (b.toNat + (!c).toNat ≤ a.toNat) := by
  simp only [subBin, addBin, complement_total hb, decide_eq_decide]
  have := (!c).toNat_le
  omega

theorem subBin_overflow {w : Width} {a b : Word} (ha : a.toNat < 2 ^ w.bits) (hb : b.toNat < 2 ^ w.bits) (c : Bool) :
    (subBin w a b c).overflow =
      decide (signedNat w a.toNat - signedNat w b.toNat - (!c).toNat < -2 ^ (w.bits - 1) ∨
        2 ^ (w.bits - 1) ≤ signedNat w a.toNat - signedNat w b.toNat - (!c).toNat) := by
  have sum_eq : signedNat w a.toNat + signedNat w (trunc w (~~~b)).toNat + c.toNat =
      signedNat w a.toNat - signedNat w b.toNat - (!c).toNat := by
    rw [trunc_not_toNat hb, signedNat_complement hb]
    cases c <;> simp only [Bool.not_true, Bool.not_false, Bool.toNat_true, Bool.toNat_false] <;> omega
  rw [subBin, addBin_overflow ha (by rw [trunc_toNat]; exact lowNat_lt w _), sum_eq]

/-! ## ADC and SBC with D = 0 -/

@[simp] theorem State.afterOperand_acc (s : State) (w : Width) (src : Src) (r : Acc) :
    (s.afterOperand w src).acc r = s.acc r := by
  cases r
  case a => exact s.afterOperand_a w src
  case b => exact s.afterOperand_b w src

theorem State.accW_lt (s : State) (r : Acc) (w : Width) : (s.accW r w).toNat < 2 ^ w.bits := by
  rw [s.accW_toNat]; exact lowNat_lt w _

theorem State.operand_lt (s : State) (w : Width) (src : Src) : (s.operand w src).toNat < 2 ^ w.bits := by
  rw [s.operand_toNat]; exact s.operandNat_lt w src

theorem exec_adc_binary (r : Acc) (src : Src) {s : State} (hd : s.ps.d = false) : exec (.adc r src) s =
    .next ((s.afterOperand s.wm src).setSum r s.wm (addBin s.wm (s.accW r s.wm) (s.operand s.wm src) s.ps.c)) := by
  change execAdc r src s = _
  rw [execAdc, hd]; rfl

theorem exec_sbc_binary (r : Acc) (src : Src) {s : State} (hd : s.ps.d = false) : exec (.sbc r src) s =
    .next ((s.afterOperand s.wm src).setSum r s.wm (subBin s.wm (s.accW r s.wm) (s.operand s.wm src) s.ps.c)) := by
  change execSbc r src s = _
  rw [execSbc, hd]; rfl

theorem State.setSum_onlyAcc (s : State) (r : Acc) (w : Width) (out : Sum) : OnlyAcc r s (s.setSum r w out) :=
  s.onlyAcc_setAcc (s.setSum r w out) r w out.result rfl

theorem State.setSum_low (s : State) (r : Acc) (w : Width) (out : Sum) :
    LowBits w (s.acc r) ((s.setSum r w out).acc r) out.result.toNat := s.setAcc_low r w out.result

/-- N and Z are those of any number `n` with the low bits of the result. -/
theorem State.setSum_ps (s : State) (r : Acc) {w : Width} {out : Sum} {n : Nat}
    (hn : out.result.toNat = n % 2 ^ w.bits) :
    (s.setSum r w out).ps = { s.ps.nz w n with c := out.carry, v := out.overflow } := by
  rw [← setNZ_eq_nz s.ps w out.result n (by rw [hn, Nat.mod_mod])]; rfl

/-- The frame, the accumulator and PS when the sum `out`, whose result is `n mod 2^w`, is written after the operand is
read. -/
theorem State.setSum_afterOperand (s : State) (r : Acc) (src : Src) {w : Width} {out : Sum} {n : Nat}
    (hn : out.result.toNat = n % 2 ^ w.bits) :
    OnlyAcc r (s.afterOperand w src) ((s.afterOperand w src).setSum r w out) ∧
    SameBytes s ((s.afterOperand w src).setSum r w out) ∧
    LowBits w (s.acc r) (((s.afterOperand w src).setSum r w out).acc r) n ∧
    ((s.afterOperand w src).setSum r w out).ps = { s.ps.nz w n with c := out.carry, v := out.overflow } := by
  refine ⟨State.setSum_onlyAcc _ r w out, SameBytes.of_mem (s.afterOperand_mem w src) (s.afterOperand_plat w src), ?_, ?_⟩
  · have low := (s.afterOperand w src).setSum_low r w out
    rw [s.afterOperand_acc] at low
    exact low.congr (by rw [hn, Nat.mod_mod])
  · rw [State.setSum_ps _ r hn, s.afterOperand_ps]

/-- Settles O33: both write a sum after the operand is read, SBC that of the complement; the numbers are those of `addBin`
and `subBin` on operands of width w. -/
theorem binaryAddSubtract : Obligations.BinaryAddSubtract := by
  intro r src s hd
  have acc_lt := s.accW_lt r s.wm
  have operand_lt := s.operand_lt s.wm src
  constructor
  case left =>
    have hn := addBin_result_toNat s.wm (s.accW r s.wm) (s.operand s.wm src) s.ps.c
    obtain ⟨frame, bytes, low, ps⟩ := s.setSum_afterOperand r src hn
    rw [addBin_carry, addBin_overflow acc_lt operand_lt] at ps
    rw [s.accW_toNat, s.operand_toNat] at low ps
    exact ⟨_, exec_adc_binary r src hd, frame, bytes, _, rfl, low, _, rfl, ps⟩
  case right =>
    have hn := subBin_result_toNat operand_lt (s.accW r s.wm) s.ps.c
    obtain ⟨frame, bytes, low, ps⟩ := s.setSum_afterOperand r src hn
    rw [subBin_carry operand_lt, subBin_overflow acc_lt operand_lt] at ps
    rw [s.accW_toNat, s.operand_toNat] at low ps
    exact ⟨_, exec_sbc_binary r src hd, frame, bytes, _, rfl, low, _, rfl, ps⟩

/-! ## Index registers plus and minus 1 -/

/-- N and Z depend on the low bits only (R38). -/
theorem PS.nz_congr (p : PS) {w : Width} {n k : Nat} (h : n % 2 ^ w.bits = k % 2 ^ w.bits) : p.nz w n = p.nz w k := by
  simp only [PS.nz, h]

/-- An instruction that gives X the low bits of `n`, as a transfer to X of a value `v` with these bits. -/
theorem exec_toX_effect_of_mod {i : Instr} {s : State} {v : Word} {n : Nat} (h : exec i s = .next (s.toX v))
    (hv : v.toNat % 2 ^ s.wx.bits = n % 2 ^ s.wx.bits) :
    ∃ t, exec i s = .next t ∧ LowBits s.wx s.x t.x n ∧ t.ps = s.ps.nz s.wx n ∧ t = { s with x := t.x, ps := t.ps } ∧
      SameBytes s t := by
  obtain ⟨t, next, low, ps, frame, bytes⟩ := exec_toX_effect h
  exact ⟨t, next, low.congr hv, ps.trans (s.ps.nz_congr hv), frame, bytes⟩

/-- An instruction that gives Y the low bits of `n`, likewise. -/
theorem exec_toY_effect_of_mod {i : Instr} {s : State} {v : Word} {n : Nat} (h : exec i s = .next (s.toY v))
    (hv : v.toNat % 2 ^ s.wx.bits = n % 2 ^ s.wx.bits) :
    ∃ t, exec i s = .next t ∧ LowBits s.wx s.y t.y n ∧ t.ps = s.ps.nz s.wx n ∧ t = { s with y := t.y, ps := t.ps } ∧
      SameBytes s t := by
  obtain ⟨t, next, low, ps, frame, bytes⟩ := exec_toY_effect h
  exact ⟨t, next, low.congr hv, ps.trans (s.ps.nz_congr hv), frame, bytes⟩

/-- Settles O36: each of the four writes `plusOne` or `minusOne` of an index register back to it, as a transfer does. -/
theorem incrementDecrementIndex : Obligations.IncrementDecrementIndex := by
  refine ⟨rfl, rfl, rfl, rfl, fun s => ⟨?toX, ?toY⟩⟩ <;>
    simp only [List.forall_mem_cons, List.not_mem_nil, false_implies, implies_true, and_true]
  case toX =>
    exact ⟨exec_toX_effect_of_mod (i := .inx) rfl (plusOne_mod s.wx s.x),
      exec_toX_effect_of_mod (i := .dex) rfl (minusOne_mod s.wx s.x)⟩
  case toY =>
    exact ⟨exec_toY_effect_of_mod (i := .iny) rfl (plusOne_mod s.wx s.y),
      exec_toY_effect_of_mod (i := .dey) rfl (minusOne_mod s.wx s.y)⟩

end Sys2Proof.Machine
end

section
/-! Comparison, shifts and extension (46_logic_compare_shift.md): `Compare_w` and the five shifts in numbers (R283, R288 to
R292), what an instruction of each kind leaves (R284 to R287, R294, R295), and the statements about them. -/

namespace Sys2Proof.Machine

/-! ## Comparison -/

/-- `Compare_w` in numbers (R283). -/
theorem PS.compare_eq (p : PS) (w : Width) (a b : Word) :
    p.compare w a b =
      { p.nz w (a.toNat + 2 ^ w.bits - b.toNat) with c := decide (b.toNat ≤ a.toNat) } := by
  rw [← setNZ_eq_nz p w (ofNatW w (a.toNat + 2 ^ w.bits - b.toNat)) _ (by rw [ofNatW_toNat, Nat.mod_mod])]; rfl

/-- An instruction that compares the register value `a`, the number `n`, with an operand (R284 to R286). -/
theorem exec_compare_effect {i : Instr} {s : State} {w : Width} {src : Src} {a : Word} {n : Nat}
    (h : exec i s = .next { s.afterOperand w src with ps := s.ps.compare w a (s.operand w src) }) (hn : a.toNat = n) :
    ∃ t, exec i s = .next t ∧ t = { s with ps := t.ps, bus := (s.afterOperand w src).bus } ∧ SameBytes s t ∧
      t.ps = { s.ps.nz w (n + 2 ^ w.bits - s.operandNat w src) with c := decide (s.operandNat w src ≤ n) } := by
  subst hn
  refine ⟨_, h, ?frame, SameBytes.of_mem (s.afterOperand_mem w src) (s.afterOperand_plat w src), ?flags⟩
  case frame => rw [s.afterOperand_eq]
  case flags => rw [← s.operand_toNat]; exact s.ps.compare_eq w a (s.operand w src)

/-- Settles O42: each of the three compares a register, CPX and CPY the index at its width, and writes nothing but PS. -/
theorem compareInstructions : Obligations.CompareInstructions := by
  intro r src s
  simp only [List.forall_mem_cons, List.not_mem_nil, false_implies, implies_true, and_true]
  exact ⟨exec_compare_effect (i := .cmp r src) rfl (s.accW_toNat r s.wm),
    exec_compare_effect (i := .cpx src) rfl s.indexX_toNat, exec_compare_effect (i := .cpy src) rfl s.indexY_toNat⟩

/-! ## Shifts and rotates in numbers

To the left, the bit shifted out is the top bit of the operand, so that the operand must have width `w`; to the right it is
bit 0. -/

theorem getLsbD_zero_eq (v : Word) : v.getLsbD 0 = decide (v.toNat % 2 = 1) := by
  rw [getLsbD_eq, Nat.pow_zero, Nat.div_one]

theorem shiftAsl_eq {w : Width} {v : Word} (hv : v.toNat < 2 ^ w.bits) (c : Bool) :
    shiftAsl w v c = (ofNatW w (v.toNat * 2), decide (2 ^ (w.bits - 1) ≤ v.toNat)) := by
  rw [shiftAsl, topBit_of_lt hv]

/-- ASR puts the sign back in at the top (R289). -/
theorem shiftAsr_eq {w : Width} {v : Word} (hv : v.toNat < 2 ^ w.bits) (c : Bool) :
    shiftAsr w v c =
      (ofNatW w (v.toNat / 2 + if 2 ^ (w.bits - 1) ≤ v.toNat then 2 ^ (w.bits - 1) else 0), decide (v.toNat % 2 = 1)) := by
  have sign_term : (topBit w v).toNat * 2 ^ (w.bits - 1) =
      if 2 ^ (w.bits - 1) ≤ v.toNat then 2 ^ (w.bits - 1) else 0 := by
    rw [topBit_of_lt hv]
    split <;> simp [*]
  rw [shiftAsr, sign_term, getLsbD_zero_eq]

theorem shiftLsr_eq (w : Width) (v : Word) (c : Bool) :
    shiftLsr w v c = (ofNatW w (v.toNat / 2), decide (v.toNat % 2 = 1)) := by
  rw [shiftLsr, getLsbD_zero_eq]

theorem shiftRol_eq {w : Width} {v : Word} (hv : v.toNat < 2 ^ w.bits) (c : Bool) :
    shiftRol w v c = (ofNatW w (v.toNat * 2 + c.toNat), decide (2 ^ (w.bits - 1) ≤ v.toNat)) := by
  rw [shiftRol, topBit_of_lt hv]

theorem shiftRor_eq (w : Width) (v : Word) (c : Bool) :
    shiftRor w v c = (ofNatW w (v.toNat / 2 + c.toNat * 2 ^ (w.bits - 1)), decide (v.toNat % 2 = 1)) := by
  rw [shiftRor, getLsbD_zero_eq]

/-! ## Instructions that shift -/

theorem State.readDst_lt (s : State) (w : Width) (dst : Dst) : (s.readDst w dst).toNat < 2 ^ w.bits := by
  rw [s.readDst_toNat]; exact s.dstNat_lt w dst

/-- PS after a shift whose result is `n mod 2^w` (R287). -/
theorem PS.shifted_eq (p : PS) (w : Width) (n : Nat) (c : Bool) :
    p.shifted w (ofNatW w n, c) = { p.nz w n with c := c } := by
  rw [← setNZ_eq_nz p w (ofNatW w n) n (by rw [ofNatW_toNat, Nat.mod_mod])]; rfl

/-- An instruction that shifts by `f`, which on this operand gives `n mod 2^w` and the carry `c` (R287). -/
theorem exec_shift_effect {i : Instr} {f : Width → Word → Bool → Word × Bool} {dst : Dst} {s : State} {n : Nat} {c : Bool}
    (hs : s.MemOk) (h : exec i s = .next (s.shiftBy f dst))
    (hf : f s.wm (s.readDst s.wm dst) s.ps.c = (ofNatW s.wm n, c)) :
    ∃ t, exec i s = .next t ∧ WritesDst s t s.wm dst n ∧ t.ps = { s.ps.nz s.wm n with c := c } := by
  refine ⟨_, h, ?writes, ?flags⟩
  case writes =>
    exact State.writeDst_effect hs s.wm dst _ n (by rw [hf, ofNatW_toNat, Nat.mod_mod]) (s.shiftBy f dst) rfl
  case flags =>
    rw [State.shiftBy, hf, s.writeDst_ps, s.ps.shifted_eq]

/-- Settles O43: the five share one shape, and the equation of each shift gives its result and the bit shifted out. -/
theorem shiftInstructions : Obligations.ShiftInstructions := by
  intro dst s hs
  have operand_lt := s.readDst_lt s.wm dst
  refine ⟨_, _, s.readDst_toNat s.wm dst, rfl, ?_⟩
  simp only [List.forall_mem_cons, List.not_mem_nil, false_implies, implies_true, and_true]
  exact ⟨exec_shift_effect hs (i := .asl dst) rfl (shiftAsl_eq operand_lt s.ps.c),
    exec_shift_effect hs (i := .asr dst) rfl (shiftAsr_eq operand_lt s.ps.c),
    exec_shift_effect hs (i := .lsr dst) rfl (shiftLsr_eq s.wm _ s.ps.c),
    exec_shift_effect hs (i := .rol dst) rfl (shiftRol_eq operand_lt s.ps.c),
    exec_shift_effect hs (i := .ror dst) rfl (shiftRor_eq s.wm _ s.ps.c)⟩

/-! ## Extension -/

/-- Sign extension of the low byte: the high byte is FFh when bit 7 is 1, else 00h (R294). -/
theorem signExtend_loByte_toNat (v : Word) : ((loByte v).signExtend 16).toNat =
    if v.toNat % 256 < 128 then v.toNat % 256 else v.toNat % 256 + 0xFF00 := by
  have low : v.toNat % 256 % 2 ^ 16 = v.toNat % 256 := by omega
  rw [BitVec.toNat_signExtend, BitVec.msb_eq_decide, BitVec.toNat_setWidth, loByte_toNat, low]
  by_cases sign_clear : v.toNat % 256 < 128
  · simp [sign_clear, Nat.not_le.mpr sign_clear]
  · simp [sign_clear, Nat.not_lt.mp sign_clear]

theorem State.setAcc_w16_acc (s : State) (r : Acc) (v : Word) : (s.setAcc r .w16 v).acc r = v := by cases r <;> rfl

/-- An instruction that puts all 16 bits of `v` in an accumulator, with N and Z, whatever m is (R294, R295). -/
theorem exec_extend_effect {i : Instr} {s : State} {r : Acc} {v : Word} (h : exec i s = .next (s.setExtended r v)) :
    ∃ t, exec i s = .next t ∧ t.acc r = v ∧ t.ps = s.ps.nz .w16 v.toNat ∧ OnlyAcc r s t ∧ SameBytes s t :=
  ⟨s.setExtended r v, h, s.setAcc_w16_acc r v, setNZ_eq_nz s.ps .w16 v v.toNat rfl,
    s.onlyAcc_setAcc (s.setExtended r v) r .w16 v rfl, SameBytes.of_mem rfl rfl⟩

/-- N and Z of 16 bits, of a number of one byte: N is 0 (R295). -/
theorem PS.nz_w16_of_byte (p : PS) {n : Nat} (hn : n < 256) :
    p.nz .w16 n = { p with n := false, z := decide (n = 0) } := by
  have low : n % 2 ^ Width.w16.bits = n := Nat.mod_eq_of_lt (Nat.lt_trans hn (by decide))
  have sign : ¬ 2 ^ (Width.w16.bits - 1) ≤ n := Nat.not_le.mpr (Nat.lt_trans hn (by decide))
  rw [PS.nz, low, decide_eq_false sign]

/-- Settles O45: both put 16 bits in the accumulator, EXTZ a number of one byte, of which N is 0. -/
theorem extendAccumulator : Obligations.ExtendAccumulator := by
  refine ⟨rfl, rfl, rfl, rfl, fun r s => ⟨?exts, ?extz⟩⟩
  case exts =>
    obtain ⟨t, next, acc, ps, frame, bytes⟩ := exec_extend_effect (i := .exts r) (s := s) rfl
    exact ⟨t, next, by rw [acc, signExtend_loByte_toNat], by rw [ps, acc], frame, bytes⟩
  case extz =>
    obtain ⟨t, next, acc, ps, frame, bytes⟩ := exec_extend_effect (i := .extz r) (s := s) rfl
    have value : (ofByte (loByte (s.acc r))).toNat = (s.acc r).toNat % 256 := by rw [ofByte_toNat, loByte_toNat]
    rw [value, s.ps.nz_w16_of_byte (Nat.mod_lt _ (by decide))] at ps
    exact ⟨t, next, by rw [acc, value], ps, frame, bytes⟩

end Sys2Proof.Machine
end

section
/-! Flag manipulation (47_bit_and_flag.md): which flag stands at each bit of PSL (R30), what replacing PSL by a masked PSL does
to the flags (R313), and the statements about CLP, SEP and the instructions of one flag. -/

namespace Sys2Proof.Machine

/-! ## The flags in PSL (R30) -/

/-- PSL holds each flag at the bit at which it is read back. -/
@[simp] theorem PS.withLow_low (p : PS) : p.withLow p.low = p := by
  simp only [PS.withLow, PS.low, BitVec.getLsbD_append]
  simp

@[simp] theorem PS.low_getElem_zero (p : PS) : p.low[0] = p.c := congrArg PS.c p.withLow_low
@[simp] theorem PS.low_getElem_one (p : PS) : p.low[1] = p.z := congrArg PS.z p.withLow_low
@[simp] theorem PS.low_getElem_two (p : PS) : p.low[2] = p.i := congrArg PS.i p.withLow_low
@[simp] theorem PS.low_getElem_three (p : PS) : p.low[3] = p.d := congrArg PS.d p.withLow_low
@[simp] theorem PS.low_getElem_four (p : PS) : p.low[4] = p.x := congrArg PS.x p.withLow_low
@[simp] theorem PS.low_getElem_five (p : PS) : p.low[5] = p.m := congrArg PS.m p.withLow_low
@[simp] theorem PS.low_getElem_six (p : PS) : p.low[6] = p.v := congrArg PS.v p.withLow_low
@[simp] theorem PS.low_getElem_seven (p : PS) : p.low[7] = p.n := congrArg PS.n p.withLow_low

/-- PSL with the bits of a mask cleared: each flag goes to 0 when its mask bit is 1 (R314). -/
theorem PS.withLow_low_and_not (p : PS) (mask : Byte) :
    p.withLow (p.low &&& ~~~mask) =
      { p with
        c := p.c && !mask.getLsbD 0, z := p.z && !mask.getLsbD 1, i := p.i && !mask.getLsbD 2
        d := p.d && !mask.getLsbD 3, x := p.x && !mask.getLsbD 4, m := p.m && !mask.getLsbD 5
        v := p.v && !mask.getLsbD 6, n := p.n && !mask.getLsbD 7 } := by
  simp [PS.withLow]

/-- PSL with the bits of a mask set: each flag goes to 1 when its mask bit is 1 (R315). -/
theorem PS.withLow_low_or (p : PS) (mask : Byte) :
    p.withLow (p.low ||| mask) =
      { p with
        c := p.c || mask.getLsbD 0, z := p.z || mask.getLsbD 1, i := p.i || mask.getLsbD 2
        d := p.d || mask.getLsbD 3, x := p.x || mask.getLsbD 4, m := p.m || mask.getLsbD 5
        v := p.v || mask.getLsbD 6, n := p.n || mask.getLsbD 7 } := by
  simp [PS.withLow]

/-! ## The instructions -/

/-- An instruction that writes PS and nothing else, with a PS known to be `q`. -/
theorem exec_ps_effect {i : Instr} {s : State} {p q : PS} (h : exec i s = .next { s with ps := p }) (hp : p = q) :
    exec i s = .next { s with ps := q } := hp ▸ h

/-- Settles O47: both replace PSL by PSL masked, the one with the mask's bits cleared and the other with them set. -/
theorem flagMaskInstructions : Obligations.FlagMaskInstructions := fun imm s =>
  ⟨rfl, rfl, exec_ps_effect (i := .clp imm) rfl (s.ps.withLow_low_and_not imm),
    exec_ps_effect (i := .sep imm) rfl (s.ps.withLow_low_or imm)⟩

/-- Settles O48: the meaning of each of the seven is one write of one flag. -/
theorem singleFlagInstructions : Obligations.SingleFlagInstructions :=
  ⟨rfl, rfl, rfl, rfl, rfl, rfl, rfl, fun _ => ⟨rfl, rfl, rfl, rfl, rfl, rfl, rfl⟩⟩

end Sys2Proof.Machine
end

section
/-! Relative branches (48_branch_return.md): what a branch under a condition leaves when it is taken and when it is not (R146,
R330), and the statement about BRA and the branches on one flag (R333, R336 to R343). -/

namespace Sys2Proof.Machine

/-! ## A branch under a condition -/

/-- The condition, which the model has as a Bool, may be said as any proposition: taken, it is the relative transfer of
`State.branch_short`. -/
theorem State.branchIf_effect (s : State) {taken : Bool} {P : Prop} [Decidable P] (hP : taken = true ↔ P) (rr : Byte) :
    if P then BranchesBy s (s.branchIf taken rr) rr.toInt else s.branchIf taken rr = s := by
  split
  case isTrue holds =>
    rw [State.branchIf, if_pos (hP.mpr holds)]
    exact s.branch_short rr
  case isFalse fails => rw [State.branchIf, if_neg (mt hP.mp fails)]

/-- An instruction that branches under a condition. -/
theorem exec_branchIf_effect {i : Instr} {s : State} {taken : Bool} {rr : Byte} {P : Prop} [Decidable P]
    (h : exec i s = .next (s.branchIf taken rr)) (hP : taken = true ↔ P) :
    ∃ t, exec i s = .next t ∧ (if P then BranchesBy s t rr.toInt else t = s) :=
  ⟨_, h, s.branchIf_effect hP rr⟩

/-- An instruction that branches when a flag is 1 (R337, R338, R339, R343). -/
theorem exec_branchIf_set {i : Instr} {s : State} {flag : Bool} {rr : Byte} (h : exec i s = .next (s.branchIf flag rr)) :
    ∃ t, exec i s = .next t ∧ (if flag = true then BranchesBy s t rr.toInt else t = s) :=
  exec_branchIf_effect h Iff.rfl

/-- An instruction that branches when a flag is 0 (R336, R340, R341, R342). -/
theorem exec_branchIf_clear {i : Instr} {s : State} {flag : Bool} {rr : Byte}
    (h : exec i s = .next (s.branchIf (!flag) rr)) :
    ∃ t, exec i s = .next t ∧ (if flag = false then BranchesBy s t rr.toInt else t = s) :=
  exec_branchIf_effect h (Bool.not_eq_true' flag).to_iff

/-! ## The statement -/

/-- Settles O51: BRA is the relative transfer itself; each of the eight is one on a flag, four when it is 0 and four when it
is 1. -/
theorem relativeBranches : Obligations.RelativeBranches := by
  intro rr rr16 s
  refine ⟨⟨_, rfl, s.branch_short rr⟩, ⟨_, rfl, s.branch_long rr16⟩, ?conditional⟩
  case conditional =>
    simp only [List.forall_mem_cons, List.not_mem_nil, false_implies, implies_true, and_true]
    exact ⟨⟨rfl, exec_branchIf_clear (i := .bcc rr) rfl⟩, ⟨rfl, exec_branchIf_set (i := .bcs rr) rfl⟩,
      ⟨rfl, exec_branchIf_clear (i := .bne rr) rfl⟩, ⟨rfl, exec_branchIf_set (i := .beq rr) rfl⟩,
      ⟨rfl, exec_branchIf_clear (i := .bpl rr) rfl⟩, ⟨rfl, exec_branchIf_set (i := .bmi rr) rfl⟩,
      ⟨rfl, exec_branchIf_clear (i := .bvc rr) rfl⟩, ⟨rfl, exec_branchIf_set (i := .bvs rr) rfl⟩⟩

end Sys2Proof.Machine
end

section
/-! NOP, STP and WIT (49_interrupt_special_other.md, R361 to R363). -/

namespace Sys2Proof.Machine

/-- Execution of NOP leaves the state as it is (R361). -/
theorem exec_nop_effect (s : State) : exec .nop s = .next s := rfl

/-- Execution of STP sets the run state and nothing else (R362). -/
theorem exec_stp_effect (s : State) : exec .stp s = .next { s with run := .stopped } := rfl

/-- Execution of WIT sets the run state and nothing else (R363). -/
theorem exec_wit_effect (s : State) : exec .wit s = .next { s with run := .waiting } := rfl

/-- Settles O56: the three codes, and each instruction's effect from its own lemma. -/
theorem nopStopWait : Obligations.NopStopWait := by
  refine ⟨?nopCode, ?stpCode, ?witCode, ?effects⟩
  case nopCode | stpCode | witCode => rfl
  case effects => exact fun s => ⟨exec_nop_effect s, exec_stp_effect s, exec_wit_effect s⟩

end Sys2Proof.Machine
end

section
/-! The round trip of the decoder (30_encoding.md): what each format reads from its own operand bytes (R98 to R103), what the
three tables make of an operation code and its operands (R104 to R106), and the statement about every instruction. -/

namespace Sys2Proof

/-! ## Operand bytes -/

@[simp] theorem wordOf_wordLo_wordHi (v : Word) : wordOf (wordLo v) (wordHi v) = v := by
  apply BitVec.eq_of_toNat_eq
  rw [wordOf, Machine.append_byte_toNat, Machine.wordLo_toNat, Machine.wordHi_toNat]
  omega

@[simp] theorem addrOf_addrBytes (a : Addr) :
    addrOf (a.extractLsb' 0 8) (a.extractLsb' 8 8) (a.extractLsb' 16 8) = a := by
  apply BitVec.eq_of_toNat_eq
  have bound := a.isLt
  rw [addrOf, Machine.append_three_toNat]
  simp only [BitVec.extractLsb'_toNat, Nat.shiftRight_eq_div_pow]
  omega

/-- An immediate of the length that the flag selects is read back (R98). -/
theorem takeImm_bytes {flag : Bool} {imm : Imm} (h : imm.fits flag = true) (rest : List Byte) :
    takeImm flag (imm.bytes ++ rest) = some (imm, rest) := by
  cases imm with
  | byte v => cases flag with
    | true => rfl
    | false => cases h
  | word v => cases flag with
    | true => cases h
    | false => simp [takeImm, Imm.bytes, wordBytes]

theorem Imm.bytes_length_le (imm : Imm) : imm.bytes.length ≤ 2 := by cases imm <;> simp [Imm.bytes, wordBytes]

/-! ## Formats -/

/-- The format makes `i` of the operand bytes `ops`, at most `n` of them, and leaves what follows. -/
def Template.Reads (c : DecodeCtx) (t : Template) (ops : List Byte) (n : Nat) (i : Instr) : Prop :=
  (∀ rest, t.fill c (ops ++ rest) = some (i, rest)) ∧ ops.length ≤ n

section Formats

variable {c : DecodeCtx}

theorem Template.reads_plain (i : Instr) : (Template.plain i).Reads c [] 0 i := ⟨fun _ => rfl, Nat.le_refl 0⟩

theorem Template.reads_byte (k : Byte → Instr) (b : Byte) : (Template.byte k).Reads c [b] 1 (k b) :=
  ⟨fun _ => rfl, Nat.le_refl 1⟩

theorem Template.reads_word (k : Word → Instr) (v : Word) : (Template.word k).Reads c (wordBytes v) 2 (k v) :=
  ⟨fun rest => by simp [wordBytes, Template.fill], Nat.le_refl 2⟩

theorem Template.reads_long (k : Addr → Instr) (a : Addr) : (Template.long k).Reads c (addrBytes a) 3 (k a) :=
  ⟨fun rest => by simp [addrBytes, Template.fill], Nat.le_refl 3⟩

theorem Template.reads_twoBytes (k : Byte → Byte → Instr) (b1 b2 : Byte) :
    (Template.twoBytes k).Reads c [b1, b2] 2 (k b1 b2) := ⟨fun _ => rfl, Nat.le_refl 2⟩

theorem Template.reads_immM (k : Imm → Instr) {imm : Imm} (h : imm.fits c.m = true) :
    (Template.immM k).Reads c imm.bytes 2 (k imm) :=
  ⟨fun rest => by simp [Template.fill, takeImm_bytes h], imm.bytes_length_le⟩

theorem Template.reads_immX (k : Imm → Instr) {imm : Imm} (h : imm.fits c.x = true) :
    (Template.immX k).Reads c imm.bytes 2 (k imm) :=
  ⟨fun rest => by simp [Template.fill, takeImm_bytes h], imm.bytes_length_le⟩

theorem Template.reads_byteImm (k : Byte → Imm → Instr) (b : Byte) {imm : Imm} (h : imm.fits c.m = true) :
    (Template.byteImm k).Reads c (b :: imm.bytes) 3 (k b imm) :=
  ⟨fun rest => by simp [Template.fill, takeImm_bytes h], Nat.succ_le_succ imm.bytes_length_le⟩

theorem Template.reads_wordImm (k : Word → Imm → Instr) (v : Word) {imm : Imm} (h : imm.fits c.m = true) :
    (Template.wordImm k).Reads c (wordBytes v ++ imm.bytes) 4 (k v imm) :=
  ⟨fun rest => by simp [wordBytes, Template.fill, takeImm_bytes h],
    Nat.succ_le_succ (Nat.succ_le_succ imm.bytes_length_le)⟩

theorem Template.reads_byteImmRel (k : Byte → Imm → Byte → Instr) (b : Byte) {imm : Imm} (rr : Byte)
    (h : imm.fits c.m = true) : (Template.byteImmRel k).Reads c (b :: imm.bytes ++ [rr]) 4 (k b imm rr) := by
  have length_le := imm.bytes_length_le
  exact ⟨fun rest => by simp [Template.fill, takeImm_bytes h], by simp; omega⟩

theorem Template.reads_wordImmRel (k : Word → Imm → Byte → Instr) (v : Word) {imm : Imm} (rr : Byte)
    (h : imm.fits c.m = true) :
    (Template.wordImmRel k).Reads c (wordBytes v ++ imm.bytes ++ [rr]) 5 (k v imm rr) := by
  have length_le := imm.bytes_length_le
  exact ⟨fun rest => by simp [wordBytes, Template.fill, takeImm_bytes h], by simp [wordBytes]; omega⟩

end Formats

/-! ## Tables -/

/-- Decoding the encoding of `i` gives `i` back, and the encoding has 1 to 6 bytes. -/
def RoundTrips (c : DecodeCtx) (i : Instr) : Prop :=
  (∀ rest, decode c (encode i ++ rest) = .ok (i, rest)) ∧ 1 ≤ (encode i).length ∧ (encode i).length ≤ 6

theorem decodeWith_of_reads {c : DecodeCtx} {t : Template} {ops : List Byte} {n : Nat} {i : Instr}
    (h : t.Reads c ops n i) (op rest : List Byte) : decodeWith c (some t) op (ops ++ rest) = .ok (i, rest) := by
  rw [decodeWith, h.1]

section Tables

variable {c : DecodeCtx} {i : Instr} {b : Byte} {ops : List Byte} {t : Template} {n : Nat}

/-- An instruction of table 1 (R104). -/
theorem roundTrips_table1 (he : encode i = b :: ops) (hp : isPrefixByte b = false) (ht : table1 b.toNat = some t)
    (hr : t.Reads c ops n i) (hn : n ≤ 5 := by decide) : RoundTrips c i := by
  have length_le := hr.2
  simp only [isPrefixByte, Bool.or_eq_false_iff, decide_eq_false_iff_not] at hp
  rw [RoundTrips, he]
  refine ⟨fun rest => ?_, by simp, by simp only [List.length_cons]; omega⟩
  simp only [List.cons_append, decode, if_neg hp.1, if_neg hp.2, ht]
  exact decodeWith_of_reads hr [b] rest

/-- An instruction of table 2, after the lead byte 42h (R105). -/
theorem roundTrips_table2 (he : encode i = 0x42#8 :: b :: ops) (ht : table2 c.series7750 b.toNat = some t)
    (hr : t.Reads c ops n i) (hn : n ≤ 4 := by decide) : RoundTrips c i := by
  have length_le := hr.2
  rw [RoundTrips, he]
  refine ⟨fun rest => ?_, by simp, by simp only [List.length_cons]; omega⟩
  rw [List.cons_append, List.cons_append, decode, if_pos rfl]
  simp only [ht]
  exact decodeWith_of_reads hr _ rest

/-- An instruction of table 3, after the lead byte 89h (R106). -/
theorem roundTrips_table3 (he : encode i = 0x89#8 :: b :: ops) (ht : table3 c.series7750 b.toNat = some t)
    (hr : t.Reads c ops n i) (hn : n ≤ 4 := by decide) : RoundTrips c i := by
  have length_le := hr.2
  rw [RoundTrips, he]
  refine ⟨fun rest => ?_, by simp, by simp only [List.length_cons]; omega⟩
  rw [List.cons_append, List.cons_append, decode, if_neg (by decide), if_pos rfl]
  simp only [ht]
  exact decodeWith_of_reads hr _ rest

/-- One of the eight accumulator instructions: table 1 with A, table 2 with B (R95, R107). -/
theorem roundTrips_acc (r : Acc) (he : encode i = r.lead ++ b :: ops) (hp : isPrefixByte b = false)
    (ht : accTable r b.toNat = some t) (hr : t.Reads c ops n i) (hn : n ≤ 4 := by decide) : RoundTrips c i := by
  cases r with
  | a => exact roundTrips_table1 he hp (by rw [table1, ht]) hr (by omega)
  | b => exact roundTrips_table2 he (by rw [table2, ht]) hr hn

end Tables

/-! ## The columns of the accumulator instructions -/

/-- `bytes` are the operation code `base + col`, where `col` is one of the columns of R107, and operands that the format in
this column makes `i` of. -/
def ColumnReads (c : DecodeCtx) (column : Nat → Option Template) (base : Byte) (bytes : List Byte) (i : Instr) : Prop :=
  ∃ (col : Byte) (t : Template) (ops : List Byte) (n : Nat), bytes = (base + col) :: ops ∧ col.toNat ∈ Machine.accColumns ∧
    column col.toNat = some t ∧ t.Reads c ops n i ∧ n ≤ 3

theorem accColumns_lt {n : Nat} (h : n ∈ Machine.accColumns) : n < 32 :=
  (by decide : ∀ n ∈ Machine.accColumns, n < 32) n h

theorem code_toNat {base col : Byte} (hb : base.toNat % 32 = 0) (hc : col.toNat ∈ Machine.accColumns) :
    (base + col).toNat = base.toNat + col.toNat := by
  have col_lt := accColumns_lt hc
  have base_lt := base.isLt
  rw [BitVec.toNat_add]
  omega

/-- The lead bytes 42h and 89h are no codes of a column but the one of the immediate in the block at 80h. -/
theorem isPrefixByte_code {base col : Byte} (hb : base.toNat % 32 = 0) (hc : col.toNat ∈ Machine.accColumns)
    (h9 : col ≠ 0x09#8 ∨ base ≠ 0x80#8) : isPrefixByte (base + col) = false := by
  have col_lt := accColumns_lt hc
  have h2 : col.toNat ≠ 2 := fun e => absurd (e ▸ hc) (by decide)
  simp only [isPrefixByte, Bool.or_eq_false_iff, decide_eq_false_iff_not]
  constructor <;> bv_omega

/-- The 14 memory modes of an accumulator instruction (R107). -/
theorem memColumn_reads {c : DecodeCtx} (k : Mode → Instr) {md : Mode} (h : md.isGeneral = true) (base : Byte) :
    ColumnReads c (memColumn k) base (md.encodeAt base) (k md) := by
  cases md with
  | dirY dd => cases h
  | dir dd | dirX dd | dirInd dd | dirXInd dd | dirIndY dd | dirIndL dd | dirIndLY dd | sr dd | srIndY dd =>
    exact ⟨_, _, _, _, rfl, by decide, rfl, Template.reads_byte _ dd, by decide⟩
  | abs a | absX a | absY a => exact ⟨_, _, _, _, rfl, by decide, rfl, Template.reads_word _ a, by decide⟩
  | absL a | absLX a => exact ⟨_, _, _, _, rfl, by decide, rfl, Template.reads_long _ a, by decide⟩

theorem srcColumn_of_memColumn {k : Src → Instr} {n : Nat} {t : Template}
    (h : memColumn (fun md => k (.mem md)) n = some t) : srcColumn k n = some t := by
  unfold srcColumn
  split
  · cases h
  · exact h

/-- A source operand of an accumulator instruction: the immediate has a column of its own (R107). -/
theorem srcColumn_reads {c : DecodeCtx} (k : Src → Instr) {src : Src} (h : src.ok c.m Mode.isGeneral = true) (base : Byte) :
    ColumnReads c (srcColumn k) base (src.encodeAt base) (k src) := by
  cases src with
  | imm imm => exact ⟨_, _, _, _, rfl, by decide, rfl, Template.reads_immM _ h, by decide⟩
  | mem md =>
    obtain ⟨col, t, ops, n, he, hc, ht, hr⟩ := memColumn_reads (fun md => k (.mem md)) (md := md) h base
    exact ⟨col, t, ops, n, he, hc, srcColumn_of_memColumn ht, hr⟩

section Blocks

variable {c : DecodeCtx} {i : Instr} {bytes : List Byte} {column : Nat → Option Template} {base : Byte}

/-- An instruction of the block at `base` of table 1, or of table 2 with B (R104, R105); the block at 80h has no immediate. -/
theorem roundTrips_accBlock (r : Acc) (he : encode i = r.lead ++ bytes) (hb : base.toNat % 32 = 0)
    (h9 : column 0x09 = none ∨ base ≠ 0x80#8) (ht : ∀ op, op / 32 = base.toNat / 32 → accTable r op = column (op % 32))
    (h : ColumnReads c column base bytes i) : RoundTrips c i := by
  obtain ⟨col, t, ops, n, rfl, hc, hcol, hr, hn⟩ := h
  have col_lt := accColumns_lt hc
  have hp : isPrefixByte (base + col) = false :=
    isPrefixByte_code hb hc (h9.imp (fun none9 e => by subst e; cases none9.symm.trans hcol) id)
  refine roundTrips_acc r he hp ?_ hr (by omega)
  rw [code_toNat hb hc, ht _ (by omega), ← hcol]
  congr 1
  omega

/-- An instruction of the block at `base` of table 3 (R106). -/
theorem roundTrips_table3Block (he : encode i = 0x89#8 :: bytes) (hb : base.toNat % 32 = 0)
    (ht : ∀ n ∈ Machine.accColumns, table3 c.series7750 (base.toNat + n) = column n)
    (h : ColumnReads c column base bytes i) : RoundTrips c i := by
  obtain ⟨col, t, ops, n, rfl, hc, hcol, hr, hn⟩ := h
  exact roundTrips_table3 he (by rw [code_toNat hb hc, ht _ hc, hcol]) hr (by omega)

end Blocks

/-! ## Instructions with more than one operand form -/

/-- An accumulator instruction with a source operand, in a block other than the one at 80h (R107). -/
theorem roundTrips_accSrc {c : DecodeCtx} (k : Src → Instr) (r : Acc) (base : Byte) {src : Src}
    (h : src.ok c.m Mode.isGeneral = true) (he : encode (k src) = r.lead ++ src.encodeAt base)
    (hb : base.toNat % 32 = 0 ∧ base ≠ 0x80#8)
    (ht : ∀ op, op / 32 = base.toNat / 32 → accTable r op = srcColumn k (op % 32)) : RoundTrips c (k src) :=
  roundTrips_accBlock r he hb.1 (.inr hb.2) ht (srcColumn_reads k h base)

/-- A shift, INC or DEC: the accumulator codes, and four memory modes (R104, R105). -/
theorem roundTrips_dst {c : DecodeCtx} (k : Dst → Instr) {dst : Dst} {accCode dirCode : Byte} (h : dst.ok = true)
    (he : encode (k dst) = dst.encodeAt accCode dirCode)
    (hp : ∀ b ∈ [accCode, dirCode, dirCode + 0x10#8, dirCode + 0x08#8, dirCode + 0x18#8], isPrefixByte b = false)
    (hA : table1 accCode.toNat = some (.plain (k (.acc .a))))
    (hB : table2 c.series7750 accCode.toNat = some (.plain (k (.acc .b))))
    (hd : table1 dirCode.toNat = some (.byte fun dd => k (.mem (.dir dd))))
    (hdx : table1 (dirCode + 0x10#8).toNat = some (.byte fun dd => k (.mem (.dirX dd))))
    (ha : table1 (dirCode + 0x08#8).toNat = some (.word fun a => k (.mem (.abs a))))
    (hax : table1 (dirCode + 0x18#8).toNat = some (.word fun a => k (.mem (.absX a)))) : RoundTrips c (k dst) := by
  simp only [List.forall_mem_cons] at hp
  obtain ⟨pAcc, pDir, pDirX, pAbs, pAbsX, -⟩ := hp
  cases dst with
  | acc r => cases r with
    | a => exact roundTrips_table1 he pAcc hA (Template.reads_plain _)
    | b => exact roundTrips_table2 he hB (Template.reads_plain _)
  | mem md => cases md with
    | dir dd => exact roundTrips_table1 he pDir hd (Template.reads_byte _ dd)
    | dirX dd => exact roundTrips_table1 he pDirX hdx (Template.reads_byte _ dd)
    | abs a => exact roundTrips_table1 he pAbs ha (Template.reads_word _ a)
    | absX a => exact roundTrips_table1 he pAbsX hax (Template.reads_word _ a)
    | _ => cases h

/-- MPY, MPYS, DIV and DIVS (R106). -/
theorem roundTrips_mulDiv {c : DecodeCtx} (k : Src → Instr) (base : Byte) {src : Src} (h : src.ok c.m Mode.isGeneral = true)
    (he : encode (k src) = 0x89#8 :: src.encodeAt base) (hb : base.toNat % 32 = 0)
    (ht : ∀ n ∈ Machine.accColumns, table3 c.series7750 (base.toNat + n) = srcColumn k n) : RoundTrips c (k src) :=
  roundTrips_table3Block he hb ht (srcColumn_reads k h base)

section Families

variable {c : DecodeCtx}

/-- The accumulator instructions (R104, R105, R107). -/
theorem roundTrips_accumulator (r : Acc) {src : Src} (h : src.ok c.m Mode.isGeneral = true) :
    ∀ i ∈ [Instr.lda r src, .adc r src, .sbc r src, .and r src, .ora r src, .eor r src, .cmp r src], RoundTrips c i := by
  simp only [List.forall_mem_cons, List.not_mem_nil, false_implies, implies_true, and_true]
  refine ⟨roundTrips_accSrc (.lda r) r 0xA0#8 h rfl (by decide) ?_, roundTrips_accSrc (.adc r) r 0x60#8 h rfl (by decide) ?_,
    roundTrips_accSrc (.sbc r) r 0xE0#8 h rfl (by decide) ?_, roundTrips_accSrc (.and r) r 0x20#8 h rfl (by decide) ?_,
    roundTrips_accSrc (.ora r) r 0x00#8 h rfl (by decide) ?_, roundTrips_accSrc (.eor r) r 0x40#8 h rfl (by decide) ?_,
    roundTrips_accSrc (.cmp r) r 0xC0#8 h rfl (by decide) ?_⟩ <;>
    exact fun op block => by rw [accTable, block]; rfl

theorem roundTrips_sta (r : Acc) {md : Mode} (h : md.isGeneral = true) : RoundTrips c (.sta r md) :=
  roundTrips_accBlock (column := memColumn (.sta r)) (base := 0x80#8) r rfl (by decide) (.inl rfl)
    (fun op block => by rw [accTable, block]; rfl) (memColumn_reads (.sta r) h 0x80#8)

/-- The shifts but ASR, INC and DEC. -/
theorem roundTrips_changed {dst : Dst} (h : dst.ok = true) :
    ∀ i ∈ [Instr.inc dst, .dec dst, .asl dst, .lsr dst, .rol dst, .ror dst], RoundTrips c i := by
  simp only [List.forall_mem_cons, List.not_mem_nil, false_implies, implies_true, and_true]
  exact ⟨roundTrips_dst .inc h rfl (by decide) rfl rfl rfl rfl rfl rfl,
    roundTrips_dst .dec h rfl (by decide) rfl rfl rfl rfl rfl rfl,
    roundTrips_dst .asl h rfl (by decide) rfl rfl rfl rfl rfl rfl,
    roundTrips_dst .lsr h rfl (by decide) rfl rfl rfl rfl rfl rfl,
    roundTrips_dst .rol h rfl (by decide) rfl rfl rfl rfl rfl rfl,
    roundTrips_dst .ror h rfl (by decide) rfl rfl rfl rfl rfl rfl⟩

/-- ASR: its codes are in tables 2 and 3, on the 7750 Series only (R3, R105, R106). -/
theorem roundTrips_asr {dst : Dst} (hs : c.series7750 = true) (h : dst.ok = true) : RoundTrips c (.asr dst) := by
  cases dst with
  | acc r => cases r with
    | a => exact roundTrips_table3 rfl (by rw [hs]; rfl) (Template.reads_plain _)
    | b => exact roundTrips_table2 rfl (by rw [hs]; rfl) (Template.reads_plain _)
  | mem md => cases md with
    | dir dd | dirX dd => exact roundTrips_table3 rfl (by rw [hs]; rfl) (Template.reads_byte _ dd)
    | abs a | absX a => exact roundTrips_table3 rfl (by rw [hs]; rfl) (Template.reads_word _ a)
    | _ => cases h

theorem roundTrips_mpy_div {src : Src} (h : src.ok c.m Mode.isGeneral = true) :
    RoundTrips c (.mpy src) ∧ RoundTrips c (.div src) := by
  constructor
  · exact roundTrips_mulDiv .mpy 0x00#8 h rfl (by decide) fun n hn => by fin_cases hn <;> rfl
  · exact roundTrips_mulDiv .div 0x20#8 h rfl (by decide) fun n hn => by fin_cases hn <;> rfl

theorem roundTrips_mpys_divs {src : Src} (hs : c.series7750 = true) (h : src.ok c.m Mode.isGeneral = true) :
    RoundTrips c (.mpys src) ∧ RoundTrips c (.divs src) := by
  constructor
  · exact roundTrips_mulDiv .mpys 0x80#8 h rfl (by decide) fun n hn => by rw [hs]; fin_cases hn <;> rfl
  · exact roundTrips_mulDiv .divs 0xA0#8 h rfl (by decide) fun n hn => by rw [hs]; fin_cases hn <;> rfl

theorem roundTrips_ldx {src : Src} (h : src.ok c.x Mode.isLdx = true) : RoundTrips c (.ldx src) := by
  cases src with
  | imm imm => exact roundTrips_table1 rfl rfl rfl (Template.reads_immX _ h)
  | mem md => cases md with
    | dir dd | dirY dd => exact roundTrips_table1 rfl rfl rfl (Template.reads_byte _ dd)
    | abs a | absY a => exact roundTrips_table1 rfl rfl rfl (Template.reads_word _ a)
    | _ => cases h

theorem roundTrips_ldy {src : Src} (h : src.ok c.x Mode.isDirAbsX = true) : RoundTrips c (.ldy src) := by
  cases src with
  | imm imm => exact roundTrips_table1 rfl rfl rfl (Template.reads_immX _ h)
  | mem md => cases md with
    | dir dd | dirX dd => exact roundTrips_table1 rfl rfl rfl (Template.reads_byte _ dd)
    | abs a | absX a => exact roundTrips_table1 rfl rfl rfl (Template.reads_word _ a)
    | _ => cases h

theorem roundTrips_cpx_cpy {src : Src} (h : src.ok c.x Mode.isDirAbs = true) :
    RoundTrips c (.cpx src) ∧ RoundTrips c (.cpy src) := by
  cases src with
  | imm imm =>
    exact ⟨roundTrips_table1 rfl rfl rfl (Template.reads_immX _ h), roundTrips_table1 rfl rfl rfl (Template.reads_immX _ h)⟩
  | mem md => cases md with
    | dir dd =>
      exact ⟨roundTrips_table1 rfl rfl rfl (Template.reads_byte _ dd), roundTrips_table1 rfl rfl rfl (Template.reads_byte _ dd)⟩
    | abs a =>
      exact ⟨roundTrips_table1 rfl rfl rfl (Template.reads_word _ a), roundTrips_table1 rfl rfl rfl (Template.reads_word _ a)⟩
    | _ => cases h

theorem roundTrips_stx {md : Mode} (h : md.isStx = true) : RoundTrips c (.stx md) := by
  cases md with
  | dir dd | dirY dd => exact roundTrips_table1 rfl rfl rfl (Template.reads_byte _ dd)
  | abs a => exact roundTrips_table1 rfl rfl rfl (Template.reads_word _ a)
  | _ => cases h

theorem roundTrips_sty {md : Mode} (h : md.isSty = true) : RoundTrips c (.sty md) := by
  cases md with
  | dir dd | dirX dd => exact roundTrips_table1 rfl rfl rfl (Template.reads_byte _ dd)
  | abs a => exact roundTrips_table1 rfl rfl rfl (Template.reads_word _ a)
  | _ => cases h

theorem roundTrips_ldm {md : Mode} {imm : Imm} (h : md.isDirAbsX = true) (hi : imm.fits c.m = true) :
    RoundTrips c (.ldm md imm) := by
  cases md with
  | dir dd | dirX dd => exact roundTrips_table1 rfl rfl rfl (Template.reads_byteImm _ dd hi)
  | abs a | absX a => exact roundTrips_table1 rfl rfl rfl (Template.reads_wordImm _ a hi)
  | _ => cases h

theorem roundTrips_clb_seb {md : Mode} {imm : Imm} (h : md.isDirAbs = true) (hi : imm.fits c.m = true) :
    RoundTrips c (.clb md imm) ∧ RoundTrips c (.seb md imm) := by
  cases md with
  | dir dd =>
    exact ⟨roundTrips_table1 rfl rfl rfl (Template.reads_byteImm _ dd hi),
      roundTrips_table1 rfl rfl rfl (Template.reads_byteImm _ dd hi)⟩
  | abs a =>
    exact ⟨roundTrips_table1 rfl rfl rfl (Template.reads_wordImm _ a hi),
      roundTrips_table1 rfl rfl rfl (Template.reads_wordImm _ a hi)⟩
  | _ => cases h

theorem roundTrips_bbc_bbs {md : Mode} {imm : Imm} (rr : Byte) (h : md.isDirAbs = true) (hi : imm.fits c.m = true) :
    RoundTrips c (.bbc md imm rr) ∧ RoundTrips c (.bbs md imm rr) := by
  cases md with
  | dir dd =>
    exact ⟨roundTrips_table1 rfl rfl rfl (Template.reads_byteImmRel _ dd rr hi),
      roundTrips_table1 rfl rfl rfl (Template.reads_byteImmRel _ dd rr hi)⟩
  | abs a =>
    exact ⟨roundTrips_table1 rfl rfl rfl (Template.reads_wordImmRel _ a rr hi),
      roundTrips_table1 rfl rfl rfl (Template.reads_wordImmRel _ a rr hi)⟩
  | _ => cases h

theorem roundTrips_jmp (t : Target) : RoundTrips c (.jmp t) := by
  cases t with
  | absL a => exact roundTrips_table1 rfl rfl rfl (Template.reads_long _ a)
  | abs a | ind a | indL a | indX a => exact roundTrips_table1 rfl rfl rfl (Template.reads_word _ a)

theorem roundTrips_jsr {t : Target} (h : t.isJsr = true) : RoundTrips c (.jsr t) := by
  cases t with
  | absL a => exact roundTrips_table1 rfl rfl rfl (Template.reads_long _ a)
  | abs a | indX a => exact roundTrips_table1 rfl rfl rfl (Template.reads_word _ a)
  | ind a | indL a => cases h

theorem roundTrips_bra (rel : Rel) : RoundTrips c (.bra rel) := by
  cases rel with
  | short rr => exact roundTrips_table1 rfl rfl rfl (Template.reads_byte _ rr)
  | long rr => exact roundTrips_table1 rfl rfl rfl (Template.reads_word _ rr)

/-- EXTS and EXTZ: on the 7750 Series only (R3). -/
theorem roundTrips_exts_extz (r : Acc) (hs : c.series7750 = true) : RoundTrips c (.exts r) ∧ RoundTrips c (.extz r) := by
  cases r with
  | a =>
    exact ⟨roundTrips_table3 rfl (by rw [hs]; rfl) (Template.reads_plain _),
      roundTrips_table3 rfl (by rw [hs]; rfl) (Template.reads_plain _)⟩
  | b =>
    exact ⟨roundTrips_table2 rfl (by rw [hs]; rfl) (Template.reads_plain _),
      roundTrips_table2 rfl (by rw [hs]; rfl) (Template.reads_plain _)⟩

end Families

/-- Every well-formed instruction (R103 to R106): the table that holds its code and the format of its operands. -/
theorem roundTrips_of_wellFormed (c : DecodeCtx) (i : Instr) (h : i.wellFormed c = true) : RoundTrips c i := by
  cases i
  case lda r src | adc r src | sbc r src | and r src | ora r src | eor r src | cmp r src =>
    exact roundTrips_accumulator r h _ (by simp)
  case sta r md => exact roundTrips_sta r h
  case inc dst | dec dst | asl dst | lsr dst | rol dst | ror dst => exact roundTrips_changed h _ (by simp)
  case asr dst =>
    obtain ⟨hs, hd⟩ := Bool.and_eq_true_iff.mp h
    exact roundTrips_asr hs hd
  case mpy src => exact (roundTrips_mpy_div h).1
  case div src => exact (roundTrips_mpy_div h).2
  case mpys src =>
    obtain ⟨hs, hsrc⟩ := Bool.and_eq_true_iff.mp h
    exact (roundTrips_mpys_divs hs hsrc).1
  case divs src =>
    obtain ⟨hs, hsrc⟩ := Bool.and_eq_true_iff.mp h
    exact (roundTrips_mpys_divs hs hsrc).2
  case ldx src => exact roundTrips_ldx h
  case ldy src => exact roundTrips_ldy h
  case cpx src => exact (roundTrips_cpx_cpy h).1
  case cpy src => exact (roundTrips_cpx_cpy h).2
  case stx md => exact roundTrips_stx h
  case sty md => exact roundTrips_sty h
  case ldm md imm =>
    obtain ⟨hmd, himm⟩ := Bool.and_eq_true_iff.mp h
    exact roundTrips_ldm hmd himm
  case clb md imm =>
    obtain ⟨hmd, himm⟩ := Bool.and_eq_true_iff.mp h
    exact (roundTrips_clb_seb hmd himm).1
  case seb md imm =>
    obtain ⟨hmd, himm⟩ := Bool.and_eq_true_iff.mp h
    exact (roundTrips_clb_seb hmd himm).2
  case bbc md imm rr =>
    obtain ⟨hmd, himm⟩ := Bool.and_eq_true_iff.mp h
    exact (roundTrips_bbc_bbs rr hmd himm).1
  case bbs md imm rr =>
    obtain ⟨hmd, himm⟩ := Bool.and_eq_true_iff.mp h
    exact (roundTrips_bbc_bbs rr hmd himm).2
  case rla imm => exact roundTrips_table3 rfl rfl (Template.reads_immM _ h)
  case exts r => exact (roundTrips_exts_extz r h).1
  case extz r => exact (roundTrips_exts_extz r h).2
  case jmp t => exact roundTrips_jmp t
  case jsr t => exact roundTrips_jsr h
  case bra rel => exact roundTrips_bra rel
  case ldt v => exact roundTrips_table3 rfl rfl (Template.reads_byte _ v)
  case xab => exact roundTrips_table3 rfl rfl (Template.reads_plain _)
  case mvn n1 n2 | mvp n1 n2 => exact roundTrips_table1 rfl rfl rfl (Template.reads_twoBytes _ n1 n2)
  case pea v | per v => exact roundTrips_table1 rfl rfl rfl (Template.reads_word _ v)
  case psh v | pul v | pei v | clp v | sep v | bcc v | bcs v | beq v | bmi v | bne v | bpl v | bvc v | bvs v | brk v =>
    exact roundTrips_table1 rfl rfl rfl (Template.reads_byte _ v)
  case tbd | tbs | tbx | tby | tdb | tsb | txb | tyb | phb | plb =>
    exact roundTrips_table2 rfl rfl (Template.reads_plain _)
  case tad | tas | tax | tay | tda | tsa | tsx | txs | txy | txa | tya | tyx | pha | phd | phg | php | pht | phx | phy | pla
      | pld | plp | plt | plx | ply | inx | iny | dex | dey | clc | cli | clm | clv | sec | sei | sem | rts | rtl | rti | nop
      | stp | wit =>
    exact roundTrips_table1 rfl rfl rfl (Template.reads_plain _)

/-- Settles O3, by the case split over the constructors of `roundTrips_of_wellFormed`. -/
theorem decodeOfEncode : Obligations.DecodeOfEncode := fun c i rest h =>
  let ⟨reads, length_pos, length_le⟩ := roundTrips_of_wellFormed c i h
  ⟨reads rest, length_pos, length_le⟩

/-- Settles O4: each byte sequence is the encoding of the instruction it stands for. -/
theorem decodedWords : Obligations.DecodedWords := fun _ _ =>
  ⟨(roundTrips_of_wellFormed _ (.adc .a (.imm (.word 0xA5B7#16))) rfl).1 [],
    (roundTrips_of_wellFormed _ (.sta .b (.abs 0x2000#16)) rfl).1 [],
    (roundTrips_of_wellFormed _ .tbx rfl).1 [],
    (roundTrips_of_wellFormed _ (.pea 0x1234#16) rfl).1 [],
    (roundTrips_of_wellFormed _ (.mvn 0xE2#8 0xE5#8) rfl).1 [],
    (roundTrips_of_wellFormed _ .xab rfl).1 [],
    (roundTrips_of_wellFormed _ (.asr (.acc .b)) rfl).1 [],
    (roundTrips_of_wellFormed _ (.clb (.dir 0x10#8) (.byte 0x81#8)) rfl).1 [],
    (roundTrips_of_wellFormed _ (.bbs (.dir 0x04#8) (.word 0x5AA5#16) 0xF6#8) rfl).1 [],
    (roundTrips_of_wellFormed _ (.jmp (.absL 0x123456#24)) rfl).1 [],
    (roundTrips_of_wellFormed _ (.brk 0xEA#8) rfl).1 []⟩

end Sys2Proof
end

section
/-! What every step keeps: canonical memory, the platform and the reset phase, for each shared operation, each instruction
and each event of a boundary; that only block transfers are refused; and the statements about both. -/

namespace Sys2Proof.Machine

/-! ## Operations -/

/-- What no operation undoes: canonical memory, the platform, and whether the reset phase is under way. -/
structure Keeps (s t : State) : Prop where
  memOk : s.MemOk → t.MemOk
  plat : t.plat = s.plat
  inReset : t.inReset = s.inReset

theorem Keeps.trans {s t u : State} (h : Keeps s t) (g : Keeps t u) : Keeps s u :=
  ⟨fun hs => g.memOk (h.memOk hs), g.plat.trans h.plat, g.inReset.trans h.inReset⟩

/-- An operation that leaves memory as it was. -/
theorem Keeps.of_mem {s t : State} (hm : t.mem = s.mem) (hp : t.plat = s.plat) (hr : t.inReset = s.inReset) : Keeps s t :=
  ⟨fun hs => by rw [State.MemOk, hm]; exact hs, hp, hr⟩

theorem Keeps.refl (s : State) : Keeps s s := .of_mem rfl rfl rfl

theorem State.keeps_afterOperand (s : State) (w : Width) (src : Src) : Keeps s (s.afterOperand w src) := by
  rw [s.afterOperand_eq]; exact .of_mem rfl rfl rfl

theorem State.keeps_afterMem (s : State) (w : Width) (md : Mode) : Keeps s (s.afterMem w md) := by
  rw [s.afterMem_eq]; exact .of_mem rfl rfl rfl

theorem State.keeps_afterTarget (s : State) (target : Target) : Keeps s (s.afterTarget target) := by
  rw [s.afterTarget_eq]; exact .of_mem rfl rfl rfl

theorem State.keeps_storeMem (s : State) (w : Width) (md : Mode) (v : Word) : Keeps s (s.storeMem w md v) :=
  ⟨State.storeMem_memOk w md v, by rw [s.storeMem_eq], by rw [s.storeMem_eq]⟩

theorem State.keeps_updateMem (s : State) (w : Width) (md : Mode) (v : Word) : Keeps s (s.updateMem w md v) :=
  ⟨State.updateMem_memOk w md v, by rw [s.updateMem_eq], by rw [s.updateMem_eq]⟩

theorem State.keeps_writeDst (s : State) (w : Width) (dst : Dst) (v : Word) : Keeps s (s.writeDst w dst v) := by
  cases dst with
  | acc r => exact .of_mem rfl rfl rfl
  | mem md => exact s.keeps_updateMem w md v

theorem State.keeps_pushW (s : State) (w : Width) (v : Word) : Keeps s (s.pushW w v) :=
  ⟨State.pushW_memOk w v, s.pushW_plat w v, by rw [s.pushW_eq]⟩

theorem State.keeps_push8 (s : State) (v : Byte) : Keeps s (s.push8 v) := ⟨s.push8_memOk v, rfl, rfl⟩

theorem State.keeps_push16 (s : State) (v : Word) : Keeps s (s.push16 v) := s.keeps_pushW .w16 v

theorem State.keeps_pushIf (s : State) (bit : Bool) (w : Width) (v : Word) : Keeps s (s.pushIf bit w v) := by
  cases bit with
  | false => exact .refl s
  | true => exact s.keeps_pushW w v

theorem State.keeps_pushReturn (s : State) (target : Target) : Keeps s (s.pushReturn target) := by
  cases target with
  | absL a => exact (s.keeps_push8 s.pg).trans (State.keeps_push16 _ s.pc)
  | abs a | ind a | indL a | indX a => exact s.keeps_push16 s.pc

theorem State.keeps_dropW (s : State) (w : Width) : Keeps s (s.dropW w) := by
  rw [s.dropW_record]; exact .of_mem rfl rfl rfl

theorem State.keeps_enter (s : State) (ret : Addr) (vec : Word) (level : Option (BitVec 3)) :
    Keeps s (s.enter ret vec level) :=
  ⟨State.enter_memOk ret vec level, by rw [s.enter_eq], by rw [s.enter_eq]⟩

theorem State.keeps_leave (s : State) : Keeps s s.leave := by
  rw [s.leave_effect.1]; exact .of_mem rfl rfl rfl

theorem State.keeps_branchIf (s : State) (taken : Bool) (rr : Byte) : Keeps s (s.branchIf taken rr) := by
  cases taken <;> exact .of_mem rfl rfl rfl

theorem State.keeps_afterBytes (s : State) (a : Addr) (n : Nat) : Keeps s (s.afterBytes a n) := by
  rw [s.afterBytes_eq]; exact .of_mem rfl rfl rfl

/-! ## Block transfers -/

theorem State.keeps_afterStep {s u : State} {n : Nat} (h : s.afterStep n = some u) : Keeps s u := by
  unfold State.afterStep State.betweenSteps at h
  split at h
  · cases h; exact .refl s
  · split at h
    · split at h
      · cases h; exact .refl s
      · split at h
        · cases h
        · cases h; exact .of_mem rfl rfl rfl
    · cases h; exact .refl s

theorem keeps_write8_after16 (s : State) (a b : Addr) (v : Byte) : Keeps s ((s.after16 a).write8 b v) :=
  ⟨State.write8_memOk b v, rfl, rfl⟩

theorem keeps_write16_after16 (s : State) (a b : Addr) (v : Word) : Keeps s ((s.after16 a).write16 b v) :=
  ⟨State.write16_memOk b v, rfl, rfl⟩

theorem keeps_moveUp (ss dd : Byte) (n : Nat) (s : State) (x y : Word) : Keeps s (moveUp ss dd n s x y).s := by
  induction n, s, x, y using moveUp.induct (ss := ss) (dd := dd) with
  | case1 s x y => exact .refl s
  | case2 s x y => exact keeps_write8_after16 s _ _ _
  | case3 n s x y t stop =>
    simp only [t] at stop
    simp only [moveUp, stop]
    exact keeps_write16_after16 s _ _ _
  | case4 n s x y t u go ih =>
    simp only [t] at go
    simp only [moveUp, go]
    exact ((keeps_write16_after16 s _ _ _).trans (State.keeps_afterStep go)).trans ih

theorem keeps_moveDown (ss dd : Byte) (n : Nat) (s : State) (x y : Word) : Keeps s (moveDown ss dd n s x y).s := by
  induction n, s, x, y using moveDown.induct (ss := ss) (dd := dd) with
  | case1 s x y => exact .refl s
  | case2 s x y => exact keeps_write8_after16 s _ _ _
  | case3 n s x y t stop =>
    simp only [t] at stop
    simp only [moveDown, stop]
    exact keeps_write16_after16 s _ _ _
  | case4 n s x y t u go ih =>
    simp only [t] at go
    simp only [moveDown, go]
    exact ((keeps_write16_after16 s _ _ _).trans (State.keeps_afterStep go)).trans ih

theorem BlockEnd.keeps_state (e : BlockEnd) (dd : Byte) : Keeps e.s (e.state dd) := by
  unfold BlockEnd.state
  split <;> exact .of_mem rfl rfl rfl

/-- What MVN and MVP answer (R241, R242, R245, R247): a refusal, or the state at the end of their steps. -/
theorem exec_block_cases {i : Instr} {s : State} {n1 n2 : Byte} (h : i = .mvn n1 n2 ∨ i = .mvp n1 n2) :
    exec i s = .refused .blockIndexHighByte ∨ exec i s = .refused .blockCrossesBank ∨
      ∃ t, exec i s = .next t ∧ Keeps s t := by
  rcases h with rfl | rfl
  · change execMvn n1 n2 s = _ ∨ execMvn n1 n2 s = _ ∨ ∃ t, execMvn n1 n2 s = _ ∧ _
    unfold execMvn
    split
    · exact .inl rfl
    · split
      · exact .inr (.inr ⟨_, rfl, (keeps_moveUp n2 n1 _ s _ _).trans (BlockEnd.keeps_state _ n1)⟩)
      · exact .inr (.inl rfl)
  · change execMvp n1 n2 s = _ ∨ execMvp n1 n2 s = _ ∨ ∃ t, execMvp n1 n2 s = _ ∧ _
    unfold execMvp
    split
    · exact .inl rfl
    · split
      · exact .inr (.inr ⟨_, rfl, (keeps_moveDown n2 n1 _ s _ _).trans (BlockEnd.keeps_state _ n1)⟩)
      · exact .inr (.inl rfl)

/-! ## PSH and PUL -/

theorem State.keeps_pullPsIf (s : State) (bit : Bool) : Keeps s (s.pullPsIf bit) := by
  cases bit with
  | false => exact .refl s
  | true => exact (s.keeps_dropW .w16).trans (.of_mem rfl rfl rfl)

theorem State.keeps_pullDtIf (s : State) (bit : Bool) : Keeps s (s.pullDtIf bit) := by
  cases bit with
  | false => exact .refl s
  | true => exact (s.keeps_dropW .w8).trans (.of_mem rfl rfl rfl)

theorem State.keeps_pullDprIf (s : State) (bit : Bool) : Keeps s (s.pullDprIf bit) := by
  cases bit with
  | false => exact .refl s
  | true => exact (s.keeps_dropW .w16).trans (.of_mem rfl rfl rfl)

theorem State.keeps_pullYIf (s : State) (bit : Bool) : Keeps s (s.pullYIf bit) := by
  cases bit with
  | false => exact .refl s
  | true => exact (s.keeps_dropW s.wx).trans (.of_mem rfl rfl rfl)

theorem State.keeps_pullXIf (s : State) (bit : Bool) : Keeps s (s.pullXIf bit) := by
  cases bit with
  | false => exact .refl s
  | true => exact (s.keeps_dropW s.wx).trans (.of_mem rfl rfl rfl)

theorem State.keeps_pullAccIf (s : State) (bit : Bool) (r : Acc) : Keeps s (s.pullAccIf bit r) := by
  cases bit with
  | false => exact .refl s
  | true => exact (s.keeps_dropW s.wm).trans (.of_mem rfl rfl rfl)

theorem exec_psh_keeps (nn : Byte) (s : State) : ∃ t, exec (.psh nn) s = .next t ∧ Keeps s t :=
  ⟨_, rfl, (((((((s.keeps_pushIf _ _ _).trans (State.keeps_pushIf _ _ _ _)).trans (State.keeps_pushIf _ _ _ _)).trans
    (State.keeps_pushIf _ _ _ _)).trans (State.keeps_pushIf _ _ _ _)).trans (State.keeps_pushIf _ _ _ _)).trans
    (State.keeps_pushIf _ _ _ _)).trans (State.keeps_pushIf _ _ _ _)⟩

theorem exec_pul_keeps (nn : Byte) (s : State) : ∃ t, exec (.pul nn) s = .next t ∧ Keeps s t :=
  ⟨_, rfl, ((((((s.keeps_pullPsIf _).trans (State.keeps_pullDtIf _ _)).trans (State.keeps_pullDprIf _ _)).trans
    (State.keeps_pullYIf _ _)).trans (State.keeps_pullXIf _ _)).trans (State.keeps_pullAccIf _ _ _)).trans
    (State.keeps_pullAccIf _ _ _)⟩

/-! ## Instructions -/

theorem exec_addSub_keeps (r : Acc) (src : Src) (s : State) :
    ∀ i ∈ [Instr.adc r src, .sbc r src], ∃ t, exec i s = .next t ∧ Keeps s t := by
  simp only [List.forall_mem_cons, List.not_mem_nil, false_implies, implies_true, and_true]
  cases hd : s.ps.d with
  | false =>
    exact ⟨⟨_, exec_adc_binary r src hd, (s.keeps_afterOperand _ _).trans (.of_mem rfl rfl rfl)⟩,
      ⟨_, exec_sbc_binary r src hd, (s.keeps_afterOperand _ _).trans (.of_mem rfl rfl rfl)⟩⟩
  | true =>
    exact ⟨⟨_, if_pos hd, (s.keeps_afterOperand _ _).trans (.of_mem rfl rfl rfl)⟩,
      ⟨_, if_pos hd, (s.keeps_afterOperand _ _).trans (.of_mem rfl rfl rfl)⟩⟩

/-- A division ends in the zero division interrupt, in overflow, or with a quotient (R262 to R265). -/
theorem exec_divide_keeps (src : Src) (s : State) :
    ∀ i ∈ [Instr.div src, .divs src], ∃ t, exec i s = .next t ∧ Keeps s t := by
  have zero : Keeps s (s.afterOperand s.wm src).zeroDivision :=
    (s.keeps_afterOperand s.wm src).trans (State.keeps_enter _ _ _ _)
  have overflow : Keeps s ((s.afterOperand s.wm src).divideOverflow s.wm) :=
    (s.keeps_afterOperand s.wm src).trans (.of_mem rfl rfl rfl)
  have quotient (q r : Word) : Keeps s ((s.afterOperand s.wm src).setQuotient s.wm q r) :=
    (s.keeps_afterOperand s.wm src).trans (.of_mem rfl rfl rfl)
  simp only [List.forall_mem_cons, List.not_mem_nil, false_implies, implies_true, and_true, exec]
  unfold execDiv execDivs
  dsimp only
  constructor
  · split
    · exact ⟨_, rfl, zero⟩
    · split
      · exact ⟨_, rfl, overflow⟩
      · exact ⟨_, rfl, quotient _ _⟩
  · split
    · exact ⟨_, rfl, zero⟩
    · split
      · exact ⟨_, rfl, overflow⟩
      · exact ⟨_, rfl, quotient _ _⟩

/-- Every instruction but the block transfers answers a next state (R161, R79, R370), which keeps what no step undoes. -/
theorem exec_next_keeps (i : Instr) (s : State) (hi : ∀ n1 n2, i ≠ .mvn n1 n2 ∧ i ≠ .mvp n1 n2) :
    ∃ t, exec i s = .next t ∧ Keeps s t := by
  cases i
  case mvn n1 n2 => exact absurd rfl (hi n1 n2).1
  case mvp n1 n2 => exact absurd rfl (hi n1 n2).2
  case psh nn => exact exec_psh_keeps nn s
  case pul nn => exact exec_pul_keeps nn s
  case adc r src | sbc r src => exact exec_addSub_keeps r src s _ (by simp)
  case div src | divs src => exact exec_divide_keeps src s _ (by simp)
  case lda r src | and r src | ora r src | eor r src | cmp r src =>
    exact ⟨_, rfl, (s.keeps_afterOperand s.wm src).trans (.of_mem rfl rfl rfl)⟩
  case mpy src | mpys src => exact ⟨_, rfl, (s.keeps_afterOperand s.wm src).trans (.of_mem rfl rfl rfl)⟩
  case ldx src | ldy src | cpx src | cpy src =>
    exact ⟨_, rfl, (s.keeps_afterOperand s.wx src).trans (.of_mem rfl rfl rfl)⟩
  case sta r md => exact ⟨_, rfl, s.keeps_storeMem s.wm md _⟩
  case ldm md imm => exact ⟨_, rfl, s.keeps_storeMem s.wm md _⟩
  case stx md | sty md => exact ⟨_, rfl, s.keeps_storeMem s.wx md _⟩
  case inc dst | dec dst | asl dst | asr dst | lsr dst | rol dst | ror dst =>
    exact ⟨_, rfl, (s.keeps_writeDst s.wm dst _).trans (.of_mem rfl rfl rfl)⟩
  case clb md imm | seb md imm => exact ⟨_, rfl, s.keeps_updateMem s.wm md _⟩
  case bbc md imm rr | bbs md imm rr =>
    exact ⟨_, rfl, (s.keeps_afterMem s.wm md).trans (State.keeps_branchIf _ _ rr)⟩
  case bcc rr | bcs rr | beq rr | bmi rr | bne rr | bpl rr | bvc rr | bvs rr => exact ⟨_, rfl, s.keeps_branchIf _ rr⟩
  case bra rel => cases rel <;> exact ⟨_, rfl, .of_mem rfl rfl rfl⟩
  case jmp target => exact ⟨_, rfl, (s.keeps_afterTarget target).trans (.of_mem rfl rfl rfl)⟩
  case jsr target =>
    exact ⟨_, rfl, ((s.keeps_pushReturn target).trans (State.keeps_afterTarget _ target)).trans (.of_mem rfl rfl rfl)⟩
  case pha | phb | phx | phy => exact ⟨_, rfl, s.keeps_pushW _ _⟩
  case phd | php => exact ⟨_, rfl, s.keeps_push16 _⟩
  case phg | pht => exact ⟨_, rfl, s.keeps_push8 _⟩
  case pea v | per v => exact ⟨_, rfl, s.keeps_push16 _⟩
  case pei dd =>
    exact ⟨_, rfl, (Keeps.of_mem (s := s) (t := s.after16 (s.direct dd)) rfl rfl rfl).trans (State.keeps_push16 _ _)⟩
  case pla | plb => exact ⟨_, rfl, (s.keeps_dropW s.wm).trans (.of_mem rfl rfl rfl)⟩
  case plx | ply => exact ⟨_, rfl, (s.keeps_dropW s.wx).trans (.of_mem rfl rfl rfl)⟩
  case brk nn => exact ⟨_, rfl, s.keeps_enter s.next vectorBrk none⟩
  case tad | tas | tax | tay | tbd | tbs | tbx | tby | tda | tdb | tsa | tsb | tsx | txs | txy | txa | txb | tya | tyb | tyx
      | xab | inx | iny | dex | dey | clc | cli | clm | clv | sec | sei | sem | nop | stp | wit =>
    exact ⟨_, rfl, .of_mem rfl rfl rfl⟩
  case pld | plp | rts => exact ⟨_, rfl, (s.keeps_dropW .w16).trans (.of_mem rfl rfl rfl)⟩
  case plt => exact ⟨_, rfl, (s.keeps_dropW .w8).trans (.of_mem rfl rfl rfl)⟩
  case rtl =>
    exact ⟨_, rfl, ((s.keeps_dropW .w16).trans (State.keeps_dropW s.drop16 .w8)).trans (.of_mem rfl rfl rfl)⟩
  case rti => exact ⟨_, rfl, s.keeps_leave⟩
  case ldt v | clp v | sep v => exact ⟨_, rfl, .of_mem rfl rfl rfl⟩
  case rla imm => exact ⟨_, rfl, .of_mem rfl rfl rfl⟩
  case exts r | extz r => exact ⟨_, rfl, .of_mem rfl rfl rfl⟩

/-- An instruction that is not refused keeps what no step undoes. -/
theorem exec_keeps {i : Instr} {s t : State} (h : exec i s = .next t) : Keeps s t := by
  by_cases block : ∃ n1 n2, i = .mvn n1 n2 ∨ i = .mvp n1 n2
  · obtain ⟨n1, n2, hi⟩ := block
    obtain refused | refused | ⟨u, next, keeps⟩ := exec_block_cases (s := s) hi
    · cases refused.symm.trans h
    · cases refused.symm.trans h
    · cases next.symm.trans h; exact keeps
  · obtain ⟨u, next, keeps⟩ := exec_next_keeps i s fun n1 n2 =>
      ⟨fun e => block ⟨n1, n2, .inl e⟩, fun e => block ⟨n1, n2, .inr e⟩⟩
    cases next.symm.trans h; exact keeps

/-- Settles O8: an instruction that is no block transfer answers a next state; what a block transfer may answer besides is one
of two refusals. -/
theorem onlyBlockTransfersRefuse : Obligations.OnlyBlockTransfersRefuse := by
  intro i s r h
  by_cases block : ∃ n1 n2, i = .mvn n1 n2 ∨ i = .mvp n1 n2
  · obtain ⟨n1, n2, hi⟩ := block
    refine ⟨n1, n2, hi, ?_⟩
    obtain refused | refused | ⟨u, next, -⟩ := exec_block_cases (s := s) hi
    · cases refused.symm.trans h; exact .inl rfl
    · cases refused.symm.trans h; exact .inr rfl
    · cases next.symm.trans h
  · obtain ⟨u, next, -⟩ := exec_next_keeps i s fun n1 n2 =>
      ⟨fun e => block ⟨n1, n2, .inl e⟩, fun e => block ⟨n1, n2, .inr e⟩⟩
    cases next.symm.trans h

/-! ## The step -/

/-- A step that answers a next state had no access refused (log 28). -/
theorem ifAllowed_next {o : Host.Outcome State Fault Refusal} {t : State} (h : ifAllowed o = .next t) :
    o = .next t ∧ t.bus.denied = none := by
  cases o with
  | next u =>
    simp only [ifAllowed] at h
    split at h
    case h_1 none_denied => cases h; exact ⟨rfl, none_denied⟩
    case h_2 => cases h
  | fault f => cases h
  | refused r => cases h

theorem State.keeps_settle (u t : State) : Keeps t (u.settle t) := .of_mem rfl rfl rfl

theorem State.runNext_keeps {s t : State} (h : s.runNext = .next t) : Keeps s t := by
  unfold State.runNext at h
  split at h
  case h_1 e _ => split at h <;> cases h
  case h_2 i len _ =>
    split at h
    · cases h
    · split at h
      case h_1 u next =>
        cases h
        have advance : Keeps s (s.advance len) := (s.keeps_afterBytes _ _).trans (.of_mem rfl rfl rfl)
        exact (advance.trans (exec_keeps next)).trans (State.keeps_settle _ _)
      case h_2 => cases h
      case h_3 => cases h

/-- A reset keeps canonical memory and the platform, and ends the reset phase. -/
theorem State.resetEvent_effect (s : State) (args : ResetArgs) :
    (s.MemOk → (s.resetEvent args).MemOk) ∧ (s.resetEvent args).plat = s.plat ∧ (s.resetEvent args).inReset = false :=
  ⟨fun hs => fillRam_wf s.plat args.ram hs, rfl, rfl⟩

theorem State.follow_keeps {s t : State} {e : Event} (h : s.follow e = .next t) :
    (s.MemOk → t.MemOk) ∧ t.plat = s.plat ∧ (s.inReset = false → t.inReset = false) := by
  have of_keeps {u : State} (k : Keeps s u) :
      (s.MemOk → u.MemOk) ∧ u.plat = s.plat ∧ (s.inReset = false → u.inReset = false) :=
    ⟨k.memOk, k.plat, k.inReset.trans⟩
  cases e with
  | reset args =>
    cases h
    obtain ⟨memOk, plat, inReset⟩ := s.resetEvent_effect args
    exact ⟨memOk, plat, fun _ => inReset⟩
  | accept r =>
    cases h
    exact of_keeps ((s.keeps_enter s.next (vectorOf s.plat r) r.level).trans (.of_mem rfl rfl rfl))
  | wake => cases h; exact of_keeps (.of_mem rfl rfl rfl)
  | idle => cases h; exact of_keeps (.refl s)
  | execute => exact of_keeps (State.runNext_keeps h)

/-- Settles O9: the reset phase ends in the step that reads the vector, and every event of a boundary keeps the rest. -/
theorem stepKeepsInvariant : Obligations.StepKeepsInvariant := by
  intro s t hs h
  unfold step at h
  split at h
  · obtain ⟨next, allowed⟩ := ifAllowed_next h
    cases next
    exact ⟨hs, rfl, rfl, allowed⟩
  · next running =>
    obtain ⟨next, allowed⟩ := ifAllowed_next h
    obtain ⟨memOk, plat, inReset⟩ := State.follow_keeps next
    exact ⟨memOk hs, plat, inReset (by simpa using running), allowed⟩

/-- Settles O10: memory is empty at reset. -/
theorem resetMemoryCanonical : Obligations.ResetMemoryCanonical := rfl

end Sys2Proof.Machine
end

section
/-! Memory, the bus and the stack (20_memory.md): reads and writes of memory in numbers (R61 to R63), when a device takes a
word in one access (R65), and the statements about memory, the bus, pushes and pulls, and the word of PS. -/

namespace Sys2Proof.Machine

/-! ## Memory -/

/-- A word of memory, low byte first (R61, R62). -/
theorem State.read16_of_memory {s : State} {a : Addr} (h : hasMemory s.plat a = true) :
    (s.read16 a).toNat = (s.read8 a).toNat + 256 * (s.read8 (a + 1#24)).toNat := by
  rw [State.read16_split (wordDevice_of_memory h), append_byte_toNat, State.after8_of_memory h]
  omega

/-- Three bytes of memory (R62). -/
theorem State.read24_of_memory {s : State} {a : Addr} (h0 : hasMemory s.plat a = true)
    (h1 : hasMemory s.plat (a + 1#24) = true) :
    (s.read24 a).toNat =
      (s.read8 a).toNat + 256 * (s.read8 (a + 1#24)).toNat + 65536 * (s.read8 (a + 2#24)).toNat := by
  rw [State.read24, append_addr_toNat, State.after16_of_memory h0 h1, State.read16_of_memory h0]
  omega

theorem State.after24_of_memory {s : State} {a : Addr} (h0 : hasMemory s.plat a = true)
    (h1 : hasMemory s.plat (a + 1#24) = true) (h2 : hasMemory s.plat (a + 2#24) = true) : s.after24 a = s := by
  rw [State.after24, State.after16_of_memory h0 h1, State.after8_of_memory h2]

/-- A write of RAM leaves the bus as it was (R77). -/
theorem State.writeW_bus_of_ram {s : State} (w : Width) {a : Addr} (v : Word) (h0 : regionKind s.plat a = .ram)
    (h1 : regionKind s.plat (a + 1#24) = .ram) : (s.writeW w a v).bus = s.bus := by
  cases w with
  | w8 => exact Bus.afterWrite8_of_ram _ _ h0
  | w16 =>
    change s.bus.afterWrite16 s.plat a v = s.bus
    rw [Bus.afterWrite16, wordDevice_of_memory (hasMemory_of_ram h0)]
    simp only [Bus.afterWrite8_of_ram _ _ h0, Bus.afterWrite8_of_ram _ _ h1]

/-- Settles O11: reads of memory byte by byte, and the laws of a write. -/
theorem memoryAccess : Obligations.MemoryAccess := by
  intro s w a v hs
  rw [← addr_succ, ← addr_add a 2]
  refine ⟨fun h0 => ⟨State.after8_of_memory h0, fun h1 => ⟨?_, ?_, fun h2 => ⟨?_, ?_⟩⟩⟩, ?_⟩
  · exact State.read16_of_memory h0
  · exact State.after16_of_memory h0 h1
  · exact State.read24_of_memory h0 h1
  · exact State.after24_of_memory h0 h1 h2
  · exact ⟨s.writeW_stores w a v hs, State.writeW_memOk w a v hs, s.writeW_eq w a v, State.writeW_bus_of_ram w v⟩

/-! ## Devices -/

/-- An aligned word of a device that takes words is one access (R65, D19). -/
theorem wordDevice_of_aligned {p : Platform} {a : Addr} {id : Nat} (even : a.toNat % 2 = 0)
    (h0 : regionKind p a = .device id true) (h1 : regionKind p (a + 1#24) = .device id true) :
    wordDevice p a = some id := by
  have bit0 : a.getLsbD 0 = false := by
    simp only [BitVec.getLsbD, Nat.testBit_zero, decide_eq_false_iff_not]
    omega
  simp only [wordDevice, h0, h1, bit0]
  rfl

/-- Any other word is two (R65, D19). -/
theorem wordDevice_of_split {p : Platform} {a : Addr}
    (h : a.toNat % 2 = 1 ∨ (∀ k, regionKind p a ≠ .device k true) ∨ regionKind p (a + 1#24) ≠ regionKind p a) :
    wordDevice p a = none := by
  cases hw : wordDevice p a with
  | none => rfl
  | some id =>
    obtain ⟨bit0, h0, h1⟩ := wordDevice_some hw
    exfalso
    rcases h with odd | other | differ
    · simp only [BitVec.getLsbD, Nat.testBit_zero, decide_eq_false_iff_not] at bit0
      omega
    · exact other id h0
    · exact differ (h1.trans h0.symm)

/-- The note of a refused access (D6, log 28). -/
theorem Bus.deny_eq (bus : Bus) (refuses : Bool) (a : Addr) :
    bus.deny refuses a = { bus with denied := if refuses = true ∧ bus.denied = none then some a else bus.denied } := by
  cases bus with
  | mk devices draws denied written => cases refuses <;> cases denied <;> rfl

section Accesses

variable {s : State} {a : Addr}

/-- One byte of a device (R65, R77). -/
theorem State.access8_of_device {id : Nat} {words : Bool} (h : regionKind s.plat a = .device id words) (b : Byte) :
    s.read8 a = loByte (Config.deviceRead id s.bus.devices s.bus.draws a .w8).2 ∧
    s.after8 a =
      { s with bus := { s.bus with devices := (Config.deviceRead id s.bus.devices s.bus.draws a .w8).1 } } ∧
    s.write8 a b =
      { s with bus := { s.bus with
        devices := Config.deviceWrite id s.bus.devices s.bus.draws a .w8 (ofByte b), written := a :: s.bus.written } } := by
  simp only [State.read8, State.after8, State.write8, Bus.afterRead8, Bus.afterWrite8, storeByte, h, and_self]

/-- An aligned word of a device that takes words: memory keeps none of it (R65, R77). -/
theorem State.access16_of_device {id : Nat} (even : a.toNat % 2 = 0) (h0 : regionKind s.plat a = .device id true)
    (h1 : regionKind s.plat (a + 1#24) = .device id true) (v : Word) :
    s.read16 a = (Config.deviceRead id s.bus.devices s.bus.draws a .w16).2 ∧
    s.after16 a =
      { s with bus := { s.bus with devices := (Config.deviceRead id s.bus.devices s.bus.draws a .w16).1 } } ∧
    s.write16 a v =
      { s with bus := { s.bus with
        devices := Config.deviceWrite id s.bus.devices s.bus.draws a .w16 v
        written := (a + 1#24) :: a :: s.bus.written } } := by
  simp only [State.read16, State.after16, State.write16, Bus.afterRead16, Bus.afterWrite16,
    wordDevice_of_aligned even h0 h1, storeByte, h0, h1, and_self]

/-- A word taken in two accesses, the low byte first (R65). -/
theorem State.access16_of_split (h : wordDevice s.plat a = none) (v : Word) :
    (s.read16 a).toNat = (s.read8 a).toNat + 256 * ((s.after8 a).read8 (a + 1#24)).toNat ∧
    s.after16 a = (s.after8 a).after8 (a + 1#24) ∧
    s.write16 a v = (s.write8 a (loByte v)).write8 (a + 1#24) (hiByte v) := by
  refine ⟨?_, State.after16_split h, State.write16_split v h⟩
  rw [State.read16_split h, append_byte_toNat]
  omega

/-- A read where nothing is placed (D6, log 8). -/
theorem State.read_of_unmapped {refuses : Bool} (h : regionKind s.plat a = .unmapped refuses) :
    s.read8 a = Config.freeByte s.bus.draws ∧
    s.after8 a = { s with bus := {
      devices := s.bus.devices, draws := s.bus.draws + 1, written := s.bus.written
      denied := if refuses = true ∧ s.bus.denied = none then some a else s.bus.denied } } := by
  simp only [State.read8, State.after8, Bus.afterRead8, h, Bus.deny_eq, and_self]

/-- A write that nothing keeps (D6, log 10). -/
theorem State.write8_of_unkept {refuses : Bool}
    (h : regionKind s.plat a = .unmapped refuses ∨ regionKind s.plat a = .rom refuses) (b : Byte) :
    s.write8 a b = { s with bus := { s.bus with
      denied := if refuses = true ∧ s.bus.denied = none then some a else s.bus.denied } } := by
  rcases h with h | h <;> simp only [State.write8, Bus.afterWrite8, storeByte, h, Bus.deny_eq]

theorem State.access_of_memoryOnly (h : MemoryOnly s.plat) (b : Byte) (v : Word) :
    s.after8 a = s ∧ s.after16 a = s ∧ (s.write8 a b).bus = s.bus ∧ (s.write16 a v).bus = s.bus :=
  ⟨State.after8_of_memory (MemoryOnly.hasMemory h a),
    State.after16_of_memory (MemoryOnly.hasMemory h a) (MemoryOnly.hasMemory h _), s.bus.afterWrite8_of_memoryOnly h a b,
    s.bus.afterWrite16_of_memoryOnly h a v⟩

end Accesses

/-- Settles O12: one rule for each kind of region and for the two ways to take a word. -/
theorem busAccess : Obligations.BusAccess := by
  intro s a b v id words refuses
  refine ⟨fun h => State.access8_of_device h b, fun even h0 h1 => State.access16_of_device even h0 h1 v,
    fun h => State.access16_of_split (wordDevice_of_split h) v, ⟨?_, rfl⟩, State.read_of_unmapped,
    fun h => State.write8_of_unkept h b, fun h => State.access_of_memoryOnly h b v, fun h => ?_, fun first h => ?_⟩
  · rw [State.read24, append_addr_toNat]
    omega
  · simp only [ifAllowed, h]
  · simp only [ifAllowed, h]

/-! ## The stack -/

theorem stackAddr_toNat (sp : Word) : (stackAddr sp).toNat = sp.toNat := by simp [stackAddr]

/-- Above an even address of the stack its neighbour is in bank 0 too. -/
theorem stackAddr_succ_of_even {sp : Word} (even : sp.toNat % 2 = 0) : stackAddr sp + 1#24 = stackAddr (sp + 1#16) := by
  refine stackAddr_succ ?_
  simp only [BitVec.getLsbD, Nat.testBit_zero, stackAddr_toNat, decide_eq_false_iff_not]
  omega

/-- Whether a device takes the word at `00h:sp` of the stack in one access (R233). -/
theorem wordDevice_stack_of_split {p : Platform} {sp : Word}
    (h : sp.toNat % 2 = 1 ∨ (∀ k, regionKind p (stackAddr sp) ≠ .device k true) ∨
      regionKind p (stackAddr (sp + 1#16)) ≠ regionKind p (stackAddr sp)) : wordDevice p (stackAddr sp) = none := by
  by_cases even : sp.toNat % 2 = 0
  · refine wordDevice_of_split ?_
    rw [stackAddr_toNat, stackAddr_succ_of_even even]
    exact h
  · exact wordDevice_of_split (.inl (by rw [stackAddr_toNat]; omega))

theorem wordDevice_stack_of_aligned {p : Platform} {sp : Word} {id : Nat} (even : sp.toNat % 2 = 0)
    (h0 : regionKind p (stackAddr sp) = .device id true) (h1 : regionKind p (stackAddr (sp + 1#16)) = .device id true) :
    wordDevice p (stackAddr sp) = some id :=
  wordDevice_of_aligned (by rw [stackAddr_toNat]; exact even) h0 (by rw [stackAddr_succ_of_even even]; exact h1)

theorem word_sub_add_one (sp : Word) : sp - 1#16 + 1#16 = sp := BitVec.sub_add_cancel sp 1#16

theorem word_add_two (sp : Word) : sp + 1#16 + 1#16 = sp + 2#16 := BitVec.add_assoc sp 1#16 1#16

theorem word_sub_two (sp : Word) : sp - 1#16 - 1#16 = sp - 2#16 := BitVec.sub_sub sp 1#16 1#16

theorem State.push16_record (s : State) (v : Word) :
    s.push16 v = { s with sp := s.sp - 2#16, mem := (s.push16 v).mem, bus := (s.push16 v).bus } := by
  have record := s.pushW_eq .w16 v
  rw [← word_sub_two]
  exact record

/-! ### Pulls of what was pushed -/

/-- The byte pushed as number `i` of `bytes` is the one that the pull of byte number `bytes.length - 1 - i` finds. -/
theorem Pushes.read8 {s t : State} {bytes : List Byte} (h : Pushes s t bytes) (hl : bytes.length ≤ 65536)
    (ram : stackIsRam s.plat s.sp bytes.length) {i j : Nat} (hij : i + j + 1 = bytes.length) :
    t.read8 (mkAddr 0x00#8 (t.sp + BitVec.ofNat 16 (j + 1))) = bytes[i] := by
  have place : t.sp + BitVec.ofNat 16 (j + 1) = s.sp - BitVec.ofNat 16 i := by
    rw [h.1]
    apply BitVec.eq_of_toNat_eq
    simp only [BitVec.toNat_add, BitVec.toNat_sub, BitVec.toNat_ofNat]
    omega
  have ram_i := ram i (by omega)
  rw [place, h.2 _ (hasMemory_of_ram ram_i)]
  exact readAfter_stackStores s bytes s.sp [] i (by omega) hl ram_i

/-- Where the stack is RAM, what was pushed there is memory for the pulls. -/
theorem Pushes.hasMemory {s t : State} {bytes : List Byte} (h : Pushes s t bytes) (hp : t.plat = s.plat)
    (ram : stackIsRam s.plat s.sp bytes.length) {j : Nat} (hj : j < bytes.length) :
    hasMemory t.plat (mkAddr 0x00#8 (t.sp + BitVec.ofNat 16 (j + 1))) = true := by
  have place : t.sp + BitVec.ofNat 16 (j + 1) = s.sp - BitVec.ofNat 16 (bytes.length - 1 - j) := by
    rw [h.1]
    apply BitVec.eq_of_toNat_eq
    simp only [BitVec.toNat_add, BitVec.toNat_sub, BitVec.toNat_ofNat]
    omega
  rw [place, hp]
  exact hasMemory_of_ram (ram _ (by omega))

theorem pushBytes_length (w : Width) (v : Word) : (pushBytes w v).length = w.bits / 8 := by
  cases w <;> simp [pushBytes, Width.bits]

/-- A value pushed before the bytes `post` is pulled after as many bytes (R71, R73, R211). -/
theorem Pushes.pulledNat {s t : State} {pre post : List Byte} {w : Width} {v : Word} {before : List Width}
    (h : Pushes s t (pre ++ pushBytes w v ++ post)) (hp : t.plat = s.plat)
    (hl : (pre ++ pushBytes w v ++ post).length ≤ 65536)
    (ram : stackIsRam s.plat s.sp (pre ++ pushBytes w v ++ post).length) (hb : pullCount before = post.length) :
    t.pulledNat before w = lowNat w v := by
  have v_lt := v.isLt
  have length_eq : (pre ++ pushBytes w v ++ post).length = pre.length + w.bits / 8 + post.length := by
    rw [List.length_append, List.length_append, pushBytes_length]
  rw [State.pulledNat_of_memory fun k hk => h.hasMemory hp ram (by omega)]
  cases w with
  | w8 =>
    rw [State.stackNat, hb, h.read8 hl ram (i := pre.length) (by rw [length_eq]; simp [Width.bits]; omega)]
    simp [pushBytes, lowNat, Width.bits]
  | w16 =>
    rw [State.stackNat, hb, h.read8 hl ram (i := pre.length + 1) (by rw [length_eq]; simp [Width.bits]; omega),
      h.read8 hl ram (i := pre.length) (by rw [length_eq]; simp [Width.bits]; omega)]
    simp [pushBytes, lowNat, Width.bits]
    omega

/-- As many bytes pulled as pushed onto RAM leave S and the bus as they were. -/
theorem Pushes.afterPulls {s t : State} {bytes : List Byte} (h : Pushes s t bytes) (hp : t.plat = s.plat)
    (ram : stackIsRam s.plat s.sp bytes.length) {widths : List Width} (hw : pullCount widths = bytes.length) :
    t.afterPulls widths = { t with sp := s.sp } := by
  rw [State.afterPulls_of_memory fun k hk => h.hasMemory hp ram (by omega), h.1, hw, BitVec.sub_add_cancel]

/-- A pull undoes a push of the same width where the stack is RAM (R70 to R73). -/
theorem State.pull_push {s : State} (hs : s.MemOk) (w : Width) (v : Word) (ram : stackIsRam s.plat s.sp (w.bits / 8)) :
    (s.pushW w v).pulledNat [] w = lowNat w v ∧ (s.pushW w v).dropW w = { s with mem := (s.pushW w v).mem } := by
  have pushed := s.pushW_pushes w v hs
  have ram' : stackIsRam s.plat s.sp (pushBytes w v).length := by rw [pushBytes_length]; exact ram
  have small : (pushBytes w v).length ≤ 65536 := by rw [pushBytes_length]; cases w <;> decide
  constructor
  · exact Pushes.pulledNat (pre := []) (post := []) (by simpa using pushed) (s.pushW_plat w v) (by simpa using small)
      (by simpa using ram') rfl
  · have restored := pushed.afterPulls (s.pushW_plat w v) ram' (widths := [w])
      (by rw [pushBytes_length, pullCount, pullCount, Nat.add_zero])
    rw [State.pushW_of_ram w v ram] at restored ⊢
    exact restored

/-- Settles O13: the two ways to push and to pull a word are those of `wordDevice_stack_of_aligned` and
`wordDevice_stack_of_split`. -/
theorem pushAndPull : Obligations.PushAndPull := by
  intro s b v id hs
  rw [byte_ofNat_toNat, byte_ofNat_div, ← word_add_two]
  refine ⟨⟨s.push8_pushes b hs, rfl⟩, ⟨rfl, rfl⟩, ⟨s.push16_pushes v hs, s.push16_record v⟩, rfl,
    fun odd => ⟨fun h0 h1 => ?pushWord, fun h0 h1 => ?pullWord⟩, fun split => ?pushBytes, fun split => ?pullBytes,
    fun w ram => State.pull_push hs w v ram⟩
  case pushWord =>
    rw [← word_sub_add_one s.sp] at h1
    exact State.push16_word v (wordDevice_stack_of_aligned (by bv_omega) h0 h1)
  case pullWord =>
    obtain ⟨drop, top⟩ := State.drop16_word (wordDevice_stack_of_aligned (by bv_omega) h0 h1)
    rw [word_add_two]
    exact ⟨top, drop⟩
  case pushBytes =>
    refine State.push16_split v (wordDevice_stack_of_split ?_)
    rw [word_sub_add_one]
    exact split.imp_left fun even => by bv_omega
  case pullBytes =>
    obtain ⟨drop, top⟩ := State.drop16_split (wordDevice_stack_of_split (split.imp_left fun even => by bv_omega))
    refine ⟨?_, drop⟩
    rw [top, append_byte_toNat]
    omega

/-! ## The word of PS (R30) -/

/-- A bit put below a number. -/
theorem append_ofBool_toNat {n : Nat} (b : BitVec n) (c : Bool) : (b ++ BitVec.ofBool c).toNat = 2 * b.toNat + c.toNat := by
  have bit_lt : (BitVec.ofBool c).toNat < 2 ^ 1 := (BitVec.ofBool c).isLt
  rw [BitVec.toNat_append, Nat.shiftLeft_eq, Nat.mul_comm, ← Nat.two_pow_add_eq_or_of_lt bit_lt, BitVec.toNat_ofBool]

theorem PS.low_toNat (p : PS) : p.low.toNat = p.c.toNat + 2 * p.z.toNat + 4 * p.i.toNat + 8 * p.d.toNat + 16 * p.x.toNat +
    32 * p.m.toNat + 64 * p.v.toNat + 128 * p.n.toNat := by
  simp only [PS.low, append_ofBool_toNat, BitVec.toNat_ofBool]
  omega

theorem PS.toWord_toNat (p : PS) : p.toWord.toNat = p.low.toNat + 256 * p.ipl.toNat := by
  have high : (0#5 ++ p.ipl : Byte).toNat = p.ipl.toNat := by rw [BitVec.toNat_append]; simp
  rw [PS.toWord, append_byte_toNat, high]
  omega

/-- PS read from a word is PSL and IPL at their places (R30). -/
theorem PS.ofWord_eq (p : PS) (v : Word) : PS.ofWord v = { p.withLow (loByte v) with ipl := v.extractLsb' 8 3 } := by
  simp [PS.ofWord, PS.withLow, loByte]

@[simp] theorem PS.ofWord_toWord (p : PS) : PS.ofWord p.toWord = p := by
  have low : loByte p.toWord = p.low := by
    apply BitVec.eq_of_toNat_eq
    have := p.low.isLt
    rw [loByte_toNat, p.toWord_toNat]
    omega
  have level : p.toWord.extractLsb' 8 3 = p.ipl := by
    apply BitVec.eq_of_toNat_eq
    have := p.low.isLt
    have := p.ipl.isLt
    rw [BitVec.extractLsb'_toNat, p.toWord_toNat, Nat.shiftRight_eq_div_pow]
    omega
  rw [PS.ofWord_eq p, low, level, PS.withLow_low]

/-- Settles O54: the bits of PSL, IPL above them, and the way back. -/
theorem statusWord : Obligations.StatusWord := fun p =>
  ⟨by rw [p.toWord_toNat, p.low_toNat], p.ofWord_toWord⟩

/-- What a PS loaded from a word is stored as: bits 15 to 11 are lost (R30, D16). -/
theorem PS.ofWord_toWord_toNat (v : Word) : (PS.ofWord v).toWord.toNat = v.toNat % 2048 := by
  have low : (PS.ofWord v).low.toNat = v.toNat % 256 := by
    simp only [PS.low_toNat, PS.ofWord, BitVec.getLsbD, Nat.toNat_testBit]
    omega
  rw [PS.toWord_toNat, low, PS.ofWord, BitVec.extractLsb'_toNat, Nat.shiftRight_eq_div_pow]
  omega

end Sys2Proof.Machine
end

section
/-! Effective addresses in numbers (40_addressing_modes.md), and the statements about loads, stores, INC and DEC, the logic
instructions, RLA, CLB and SEB. -/

namespace Sys2Proof.Machine

/-! ## Effective addresses -/

/-- A sum of 24 bits with an index. -/
theorem add_indexX_toNat (s : State) (a : Addr) : (a + wide s.indexX).toNat = (a.toNat + s.xNat) % 2 ^ 24 := by
  rw [BitVec.toNat_add, wide_toNat, s.indexX_toNat]

theorem add_indexY_toNat (s : State) (a : Addr) : (a + wide s.indexY).toNat = (a.toNat + s.yNat) % 2 ^ 24 := by
  rw [BitVec.toNat_add, wide_toNat, s.indexY_toNat]

/-- The direct page and a byte reach no further than bank 1, with an index than bank 2 (R125, R127, R128). -/
theorem State.direct_indexX_toNat (s : State) (dd : Byte) :
    (s.direct dd + wide s.indexX).toNat = s.dpr.toNat + dd.toNat + s.xNat := by
  have dpr_lt := s.dpr.isLt
  have dd_lt := dd.isLt
  have x_lt := s.xNat_lt
  rw [add_indexX_toNat, s.direct_toNat]
  omega

theorem State.direct_indexY_toNat (s : State) (dd : Byte) :
    (s.direct dd + wide s.indexY).toNat = s.dpr.toNat + dd.toNat + s.yNat := by
  have dpr_lt := s.dpr.isLt
  have dd_lt := dd.isLt
  have y_lt := s.yNat_lt
  rw [add_indexY_toNat, s.direct_toNat]
  omega

/-- Settles O14: each address is a sum of 24 bits, which does not wrap in the direct and stack modes. -/
theorem plainAddresses : Obligations.PlainAddresses := by
  intro s n mmll hhmmll
  refine ⟨s.direct_toNat n, s.direct_indexX_toNat n, s.direct_indexY_toNat n, s.stackRel_toNat n, mkAddr_toNat s.dt mmll,
    ?absX, ?absY, rfl, add_indexX_toNat s hhmmll⟩
  case absX => rw [State.ea, add_indexX_toNat, mkAddr_toNat]
  case absY => rw [State.ea, add_indexY_toNat, mkAddr_toNat]

/-- Settles O15: the pointer is at an address of `plainAddresses`. -/
theorem indirectAddresses : Obligations.IndirectAddresses := by
  intro s n
  refine ⟨?dirInd, ?dirXInd, ?dirIndY, ?dirIndL, ?dirIndLY, ?srIndY⟩
  case dirInd => rw [State.ea, mkAddr_toNat, s.read16_toNat, s.direct_toNat]
  case dirXInd => rw [State.ea, mkAddr_toNat, s.read16_toNat, s.direct_indexX_toNat]
  case dirIndY => rw [State.ea, add_indexY_toNat, mkAddr_toNat, s.read16_toNat, s.direct_toNat]
  case dirIndL => rw [State.ea, s.read24_toNat, s.direct_toNat]
  case dirIndLY => rw [State.ea, add_indexY_toNat, s.read24_toNat, s.direct_toNat]
  case srIndY => rw [State.ea, add_indexY_toNat, mkAddr_toNat, s.read16_toNat, s.stackRel_toNat]

/-! ## Loads -/

/-- An instruction that reads an operand at the width of flag m and puts `v`, a word with the low bits of `n`, in an
accumulator, with N and Z. -/
theorem exec_operandToAcc_effect {i : Instr} {s : State} {r : Acc} {src : Src} {v : Word} {n : Nat}
    (h : exec i s = .next (((s.afterOperand s.wm src).setAcc r s.wm v).setNZ s.wm v))
    (hv : v.toNat % 2 ^ s.wm.bits = n % 2 ^ s.wm.bits) :
    ∃ t, exec i s = .next t ∧ LowBits s.wm (s.acc r) (t.acc r) n ∧ t.ps = s.ps.nz s.wm n ∧
      OnlyAcc r (s.afterOperand s.wm src) t ∧ SameBytes s t := by
  refine ⟨_, h, ?low, ?flags, State.onlyAcc_setAcc _ _ r s.wm v rfl, ?bytes⟩
  case low =>
    have low := (s.afterOperand s.wm src).setAcc_low r s.wm v
    rw [s.afterOperand_acc] at low
    exact low.congr hv
  case flags => rw [← setNZ_eq_nz s.ps s.wm v n hv, ← s.afterOperand_ps s.wm src]; rfl
  case bytes => exact SameBytes.of_mem (s.afterOperand_mem s.wm src) (s.afterOperand_plat s.wm src)

/-- Settles O16: the value put in the accumulator is the operand. -/
theorem loadAccumulator : Obligations.LoadAccumulator := fun r src s =>
  exec_operandToAcc_effect (i := .lda r src) rfl (by rw [s.operand_toNat])

theorem exec_ldx_effect (src : Src) (s : State) : exec (.ldx src) s = .next { s with
    x := merge s.wx s.x (s.operand s.wx src), ps := s.ps.setNZ s.wx (s.operand s.wx src)
    bus := (s.afterOperand s.wx src).bus } := by
  change execLdx src s = _
  rw [execLdx, s.afterOperand_eq]
  rfl

theorem exec_ldy_effect (src : Src) (s : State) : exec (.ldy src) s = .next { s with
    y := merge s.wx s.y (s.operand s.wx src), ps := s.ps.setNZ s.wx (s.operand s.wx src)
    bus := (s.afterOperand s.wx src).bus } := by
  change execLdy src s = _
  rw [execLdy, s.afterOperand_eq]
  rfl

/-- Settles O17: LDX and LDY write the low bits of the operand, LDT the whole of DT. -/
theorem loadIndexAndBank : Obligations.LoadIndexAndBank := by
  intro src imm s
  refine ⟨⟨_, exec_ldx_effect src s, ?lowX, ?flagsX, rfl, SameBytes.of_mem rfl rfl⟩,
    ⟨_, exec_ldy_effect src s, ?lowY, ?flagsY, rfl, SameBytes.of_mem rfl rfl⟩, ⟨_, rfl, rfl, SameBytes.of_mem rfl rfl⟩⟩
  case lowX => rw [← s.operand_toNat]; exact merge_lowBits s.wx s.x _
  case lowY => rw [← s.operand_toNat]; exact merge_lowBits s.wx s.y _
  case flagsX | flagsY => exact setNZ_eq_nz s.ps s.wx _ _ (by rw [s.operand_toNat])

/-! ## Stores -/

/-- An instruction that stores `v` at the address of a mode. -/
theorem exec_store_effect {i : Instr} {s : State} {w : Width} {md : Mode} {v : Word} (hs : s.MemOk)
    (h : exec i s = .next (s.storeMem w md v)) :
    ∃ t, exec i s = .next t ∧ Stores s t w (s.ea md) v.toNat ∧ t = { s with mem := t.mem, bus := (s.storeMem w md v).bus } :=
  ⟨_, h, s.storeMem_stores w md v hs, s.storeMem_eq w md v⟩

theorem immValue_eq (w : Width) (i : Imm) : immValue w i = BitVec.ofNat 16 (Imm.nat w i) := by
  rw [← immValue_toNat, BitVec.ofNat_toNat, BitVec.setWidth_eq]

/-- Settles O18: each of the four is one store. -/
theorem storeInstructions : Obligations.StoreInstructions := by
  intro md s hs
  refine ⟨fun r => exec_store_effect (i := .sta r md) hs rfl, fun imm => ?ldm, exec_store_effect (i := .stx md) hs rfl,
    exec_store_effect (i := .sty md) hs rfl⟩
  case ldm =>
    have store := exec_store_effect (i := .ldm md imm) hs rfl
    rw [immValue_toNat, immValue_eq] at store
    exact store

/-! ## INC and DEC -/

/-- Settles O35: the value written in place is the old one plus or minus 1 modulo `2^w`. -/
theorem incrementDecrement : Obligations.IncrementDecrement := by
  intro dst s hs
  have plus := plusOne_mod s.wm (s.readDst s.wm dst)
  have minus := minusOne_mod s.wm (s.readDst s.wm dst)
  rw [s.readDst_toNat] at plus minus
  refine ⟨⟨_, rfl, State.writeDst_effect hs s.wm dst _ _ plus _ rfl, ?_⟩,
    ⟨_, rfl, State.writeDst_effect hs s.wm dst _ _ minus _ rfl, ?_⟩⟩
  · rw [← setNZ_eq_nz s.ps s.wm _ _ plus, ← s.writeDst_ps s.wm dst]; rfl
  · rw [← setNZ_eq_nz s.ps s.wm _ _ minus, ← s.writeDst_ps s.wm dst]; rfl

/-! ## Logic -/

/-- A result in an accumulator after the operand is read. -/
theorem State.setResult_afterOperand (s : State) (r : Acc) (src : Src) (v : Word) :
    (s.afterOperand s.wm src).setResult r v = ((s.afterOperand s.wm src).setAcc r s.wm v).setNZ s.wm v := by
  have width : (s.afterOperand s.wm src).wm = s.wm := by rw [s.afterOperand_eq]; rfl
  rw [State.setResult, width]

/-- Settles O41: the bits of the result are those of the operation on the numbers. -/
theorem logicInstructions : Obligations.LogicInstructions := by
  intro r src s
  simp only [List.forall_mem_cons, List.not_mem_nil, false_implies, implies_true, and_true]
  refine ⟨exec_operandToAcc_effect (i := .and r src) (congrArg Host.Outcome.next (s.setResult_afterOperand r src _)) ?_,
    exec_operandToAcc_effect (i := .ora r src) (congrArg Host.Outcome.next (s.setResult_afterOperand r src _)) ?_,
    exec_operandToAcc_effect (i := .eor r src) (congrArg Host.Outcome.next (s.setResult_afterOperand r src _)) ?_⟩
  · rw [BitVec.toNat_and, s.accW_toNat, s.operand_toNat]
  · rw [BitVec.toNat_or, s.accW_toNat, s.operand_toNat]
  · rw [BitVec.toNat_xor, s.accW_toNat, s.operand_toNat]

/-! ## RLA -/

/-- Bit `k` moves up by `n` places round a number of `w` bits. -/
theorem testBit_rotate {w v n k : Nat} (hv : v < 2 ^ w) (hn : n < w) (hk : k < w) :
    (v * 2 ^ n % 2 ^ w + v / 2 ^ (w - n)).testBit ((k + n) % w) = v.testBit k := by
  have split : 2 ^ w = 2 ^ n * 2 ^ (w - n) := by rw [← Nat.pow_add]; congr 1; omega
  have high_lt : v / 2 ^ (w - n) < 2 ^ n := by
    rw [Nat.div_lt_iff_lt_mul (Nat.two_pow_pos _), ← split]; exact hv
  have low : v * 2 ^ n % 2 ^ w = 2 ^ n * (v % 2 ^ (w - n)) := by rw [split, Nat.mul_comm v, Nat.mul_mod_mul_left]
  rw [low, Nat.testBit_two_pow_mul_add _ high_lt]
  by_cases wraps : k + n < w
  · rw [Nat.mod_eq_of_lt wraps, if_neg (by omega), Nat.testBit_mod_two_pow, Nat.add_sub_cancel]
    simp [show k < w - n by omega]
  · have place : (k + n) % w = k + n - w := by rw [Nat.mod_eq_sub_mod (by omega), Nat.mod_eq_of_lt (by omega)]
    rw [place, if_pos (by omega), Nat.testBit_div_two_pow]
    congr 1
    omega

theorem rotateLeft_getLsbD {w : Width} {v : Word} (hv : v.toNat < 2 ^ w.bits) (n : Nat) {k : Nat} (hk : k < w.bits) :
    (rotateLeft w v n).getLsbD ((k + n) % w.bits) = v.getLsbD k := by
  have bits_pos : 0 < w.bits := by cases w <;> decide
  have place_lt : (k + n) % w.bits < w.bits := Nat.mod_lt _ bits_pos
  have place : (k + n) % w.bits = (k + n % w.bits) % w.bits := by rw [Nat.add_mod_mod]
  rw [BitVec.getLsbD, rotateLeft, ofNatW_toNat, Nat.testBit_mod_two_pow, decide_eq_true place_lt, Bool.true_and, place,
    testBit_rotate hv (Nat.mod_lt _ bits_pos) hk]
  rfl

/-- The low bits of a register after a partial write. -/
theorem merge_getLsbD {w : Width} (old v : Word) {k : Nat} (hk : k < w.bits) : (merge w old v).getLsbD k = v.getLsbD k := by
  have low := lowNat_merge w old v
  have same : ((merge w old v).toNat % 2 ^ w.bits).testBit k = (v.toNat % 2 ^ w.bits).testBit k := by
    rw [← lowNat, ← lowNat, low]
  simpa [Nat.testBit_mod_two_pow, hk, BitVec.getLsbD] using same

theorem accW_getLsbD (s : State) (r : Acc) {w : Width} {k : Nat} (hk : k < w.bits) :
    (s.accW r w).getLsbD k = (s.acc r).getLsbD k := by
  rw [← merge_getLsbD 0#16 (s.accW r w) hk, State.accW, merge_trunc, merge_getLsbD _ _ hk]

/-- Settles O44: the rotated operand is written to the low bits of A. -/
theorem rotateAccumulator : Obligations.RotateAccumulator := by
  intro imm s
  refine ⟨_, rfl, rfl, SameBytes.of_mem rfl rfl, (merge_lowBits s.wm s.a _).2, fun k hk => ?_⟩
  have place_lt : (k + Imm.nat s.wm imm) % s.wm.bits < s.wm.bits := Nat.mod_lt _ (by omega)
  rw [State.setAcc_a_a, merge_getLsbD _ _ place_lt, immValue_toNat, rotateLeft_getLsbD (s.accW_lt .a s.wm) _ hk,
    accW_getLsbD s .a hk, State.acc_a]

/-! ## CLB and SEB -/

/-- An instruction that changes a memory operand to `v`, the word with the number `n`. -/
theorem exec_updateMem_effect {i : Instr} {s : State} {md : Mode} {v : Word} {n : Nat} (hs : s.MemOk)
    (h : exec i s = .next (s.updateMem s.wm md v)) (hv : v.toNat = n) :
    ∃ t, exec i s = .next t ∧ Stores s t s.wm (s.ea md) n ∧
      t = { s with mem := t.mem, bus := (s.updateMem s.wm md (BitVec.ofNat 16 n)).bus } := by
  subst hv
  rw [BitVec.ofNat_toNat, BitVec.setWidth_eq]
  exact ⟨_, h, s.updateMem_stores s.wm md v hs, s.updateMem_eq s.wm md v⟩

/-- Settles O46: the mask's bits cleared or set in the word that is read, and one write of it. -/
theorem bitInstructions : Obligations.BitInstructions := by
  intro md imm s hs
  have operand : (s.memOperand s.wm md).toNat = s.dstNat s.wm (.mem md) := rfl
  refine ⟨_, _, rfl, rfl, exec_updateMem_effect (i := .clb md imm) hs rfl ?_,
    exec_updateMem_effect (i := .seb md imm) hs rfl ?_⟩
  · rw [BitVec.toNat_and, BitVec.toNat_not, immValue_toNat, operand]
  · rw [BitVec.toNat_or, immValue_toNat, operand]

end Sys2Proof.Machine
end

section
/-! Multiplication, division (R260 to R265) and decimal sums (R251): the numbers that MPY, MPYS, DIV and DIVS leave, the zero
division interrupt, and the statements about them. -/

namespace Sys2Proof.Machine

/-! ## Two accumulators -/

/-- A and B written after the operand is read: the low bits of both, PS, and nothing else. -/
theorem State.setPair_effect (s : State) (w : Width) (src : Src) (high low : Word) (ps : PS) :
    ∃ t, t = { (s.afterOperand w src).setPair w high low with ps := ps } ∧
      t = { s with a := t.a, b := t.b, ps := t.ps, bus := (s.afterOperand w src).bus } ∧ SameBytes s t ∧
      t.a = merge w s.a low ∧ t.b = merge w s.b high ∧ t.ps = ps := by
  rw [s.afterOperand_eq]
  exact ⟨_, rfl, rfl, SameBytes.of_mem rfl rfl, rfl, rfl, rfl⟩

/-! ## Products -/

theorem exec_mpy_eq (src : Src) (s : State) : exec (.mpy src) s =
    .next { (s.afterOperand s.wm src).setProduct s.wm (lowNat s.wm s.a * s.operandNat s.wm src) with
      ps := { s.ps.ofProduct s.wm (lowNat s.wm s.a * s.operandNat s.wm src) with c := false } } := by
  change execMpy src s = _
  rw [execMpy, s.accW_toNat, s.operand_toNat, s.afterOperand_eq]
  rfl

theorem exec_mpys_eq (src : Src) (s : State) : exec (.mpys src) s =
    .next { (s.afterOperand s.wm src).setProduct s.wm (signedProduct s.wm (s.accW .a s.wm) (s.operand s.wm src)) with
      ps := s.ps.ofProduct s.wm (signedProduct s.wm (s.accW .a s.wm) (s.operand s.wm src)) } := by
  change execMpys src s = _
  rw [execMpys, s.afterOperand_eq]
  rfl

theorem signedW_of_lt {w : Width} {v : Word} (h : v.toNat < 2 ^ w.bits) : signedW w v = signedNat w v.toNat := by
  rw [signedW_eq, lowNat_of_lt h]

/-- The product of two signed numbers of `w` bits lies between `-2^(2w-2)` and `2^(2w-2)`. -/
theorem signedNat_mul_bounds {w : Width} {a b : Nat} (ha : a < 2 ^ w.bits) (hb : b < 2 ^ w.bits) :
    -2 ^ (2 * w.bits - 2) ≤ signedNat w a * signedNat w b ∧ signedNat w a * signedNat w b ≤ 2 ^ (2 * w.bits - 2) := by
  have half {v : Nat} (hv : v < 2 ^ w.bits) : (signedNat w v).natAbs ≤ 2 ^ (w.bits - 1) := by
    have reading := signedNat_cases w v
    cases w <;> simp only [Width.bits] at hv reading ⊢ <;> omega
  have product : (signedNat w a * signedNat w b).natAbs ≤ 2 ^ (w.bits - 1) * 2 ^ (w.bits - 1) := by
    rw [Int.natAbs_mul]
    exact Nat.mul_le_mul (half ha) (half hb)
  cases w <;> simp only [Width.bits] at product ⊢ <;> omega

/-- N and Z of a signed product, from its number of `2w` bits (R261). -/
theorem PS.ofProduct_signed (ps : PS) {w : Width} {p : Int} (hp : -2 ^ (2 * w.bits - 2) ≤ p ∧ p ≤ 2 ^ (2 * w.bits - 2)) :
    ps.ofProduct w (p % 2 ^ (2 * w.bits)).toNat = { ps with n := decide (p < 0), z := decide (p = 0) } := by
  have negative : 2 ^ (2 * w.bits - 1) ≤ (p % 2 ^ (2 * w.bits)).toNat ↔ p < 0 := by
    cases w <;> simp only [Width.bits] at hp ⊢ <;> omega
  have zero : (p % 2 ^ (2 * w.bits)).toNat = 0 ↔ p = 0 := by
    cases w <;> simp only [Width.bits] at hp ⊢ <;> omega
  simp only [PS.ofProduct, negative, zero]

/-- The two halves of a number of `2w` bits (R260). -/
theorem lowNat_halves {w : Width} {p : Nat} (hp : p < 2 ^ (2 * w.bits)) (oldA oldB : Word) :
    lowNat w (merge w oldB (ofNatW w (p / 2 ^ w.bits))) * 2 ^ w.bits + lowNat w (merge w oldA (ofNatW w p)) = p := by
  rw [lowNat_merge, lowNat_merge, lowNat, lowNat, ofNatW_toNat, ofNatW_toNat, Nat.mod_mod, Nat.mod_mod]
  cases w <;> simp only [Width.bits] at hp ⊢ <;> omega

theorem merge_ofNatW (w : Width) (old : Word) (n : Nat) : LowBits w old (merge w old (ofNatW w n)) n :=
  (merge_lowBits w old _).congr (by rw [ofNatW_toNat, Nat.mod_mod])

/-- Settles O37: the halves of the product, as a number of `2w` bits, go to B and A. -/
theorem multiply : Obligations.Multiply := by
  intro src s
  constructor
  case left =>
    have a_lt := lowNat_lt s.wm s.a
    have operand_lt := s.operandNat_lt s.wm src
    obtain ⟨t, ht, frame, bytes, a, b, ps⟩ := s.setPair_effect s.wm src _ _ _
    exact ⟨t, (exec_mpy_eq src s).trans (congrArg _ ht.symm), frame, bytes, _, rfl, a ▸ merge_ofNatW s.wm s.a _,
      b ▸ merge_ofNatW s.wm s.b _, ps⟩
  case right =>
    have bounds := signedNat_mul_bounds (lowNat_lt s.wm s.a) (s.operandNat_lt s.wm src)
    have product : signedProduct s.wm (s.accW .a s.wm) (s.operand s.wm src) =
        (signedNat s.wm (lowNat s.wm s.a) * signedNat s.wm (s.operandNat s.wm src) % 2 ^ (2 * s.wm.bits)).toNat := by
      rw [signedProduct, signedW_of_lt (s.accW_lt .a s.wm), signedW_of_lt (s.operand_lt s.wm src), s.accW_toNat,
        s.operand_toNat, State.acc_a]
    have exec_eq := exec_mpys_eq src s
    rw [product, s.ps.ofProduct_signed bounds] at exec_eq
    generalize signedNat s.wm (lowNat s.wm s.a) * signedNat s.wm (s.operandNat s.wm src) = p at exec_eq ⊢
    obtain ⟨t, ht, frame, bytes, a, b, ps⟩ := s.setPair_effect s.wm src _ _ _
    refine ⟨t, exec_eq.trans (congrArg _ ht.symm), frame, bytes, p, rfl, ?halves, ?highA, ?highB, ps⟩
    case halves =>
      have modulus_pos : (0 : Int) < 2 ^ (2 * s.wm.bits) := Int.pow_pos (by decide)
      have halves := lowNat_halves (w := s.wm) (p := (p % 2 ^ (2 * s.wm.bits)).toNat) (by zify; omega) s.a s.b
      rw [a, b]
      zify at halves
      omega
    case highA => rw [a]; exact (merge_lowBits s.wm s.a _).2
    case highB => rw [b]; exact (merge_lowBits s.wm s.b _).2

/-! ## Quotients -/

/-- The dividend as a number of `2w` bits (R262). -/
theorem State.dividend_eq (s : State) (w : Width) : s.dividend w = lowNat w s.b * 2 ^ w.bits + lowNat w s.a := by
  rw [State.dividend, s.accW_toNat, s.accW_toNat, State.acc_a, State.acc_b]

/-- Division overflow after the operand is read: the high bits stay, V and C become 1 (R265). -/
theorem State.divideOverflow_effect (s : State) (w : Width) (src : Src) :
    ∃ t, t = (s.afterOperand w src).divideOverflow w ∧
      t = { s with a := t.a, b := t.b, ps := t.ps, bus := (s.afterOperand w src).bus } ∧ SameBytes s t ∧
      t.ps = { s.ps with v := true, c := true } ∧ t.a.toNat / 2 ^ w.bits = s.a.toNat / 2 ^ w.bits ∧
      t.b.toNat / 2 ^ w.bits = s.b.toNat / 2 ^ w.bits := by
  obtain ⟨t, ht, frame, bytes, a, b, ps⟩ := s.setPair_effect w src
    (Config.freeWord (s.afterOperand w src).bus.draws 1) (Config.freeWord (s.afterOperand w src).bus.draws 0)
    { (s.afterOperand w src).ps with v := true, c := true }
  rw [s.afterOperand_ps] at ps
  exact ⟨t, ht, frame, bytes, ps, a ▸ (merge_lowBits w s.a _).2, b ▸ (merge_lowBits w s.b _).2⟩

/-- A quotient and a remainder after the operand is read (R262, R263). -/
theorem State.setQuotient_effect (s : State) (w : Width) (src : Src) (q r : Word) :
    ∃ t, t = (s.afterOperand w src).setQuotient w q r ∧
      t = { s with a := t.a, b := t.b, ps := t.ps, bus := (s.afterOperand w src).bus } ∧ SameBytes s t ∧
      t.a = merge w s.a q ∧ t.b = merge w s.b r ∧ t.ps = { s.ps.setNZ w q with v := false, c := false } := by
  obtain ⟨t, ht, frame, bytes, a, b, ps⟩ := s.setPair_effect w src r q
    { (s.afterOperand w src).ps.setNZ w q with v := false, c := false }
  rw [s.afterOperand_ps] at ps
  exact ⟨t, ht, frame, bytes, a, b, ps⟩

/-- Settles O38: the quotient of the number of `2w` bits fits, or the division overflows. -/
theorem divideUnsigned : Obligations.DivideUnsigned := by
  intro src s nonzero
  have exec_eq : exec (.div src) s = execDiv src s := rfl
  rw [execDiv] at exec_eq
  simp only [s.operand_toNat, s.dividend_eq, if_neg nonzero] at exec_eq
  split at exec_eq
  case isTrue large =>
    obtain ⟨t, ht, frame, bytes, overflow⟩ := s.divideOverflow_effect s.wm src
    refine ⟨t, exec_eq.trans (congrArg _ ht.symm), frame, bytes, _, _, rfl, rfl, ?_⟩
    rw [if_neg (Nat.not_lt.mpr large)]
    exact overflow
  case isFalse small =>
    obtain ⟨t, ht, frame, bytes, a, b, ps⟩ := s.setQuotient_effect s.wm src _ _
    refine ⟨t, exec_eq.trans (congrArg _ ht.symm), frame, bytes, _, _, rfl, rfl, ?_⟩
    rw [if_pos (Nat.lt_of_not_le small), a, b, ps,
      ← setNZ_eq_nz s.ps s.wm (ofNatW s.wm _) _ (by rw [ofNatW_toNat, Nat.mod_mod])]
    exact ⟨merge_ofNatW s.wm s.a _, merge_ofNatW s.wm s.b _, rfl⟩

/-! ## Signed quotients -/

/-- The dividend as a signed number: B with its sign, A without (R263). -/
theorem signedDouble_halves {w : Width} {high low : Nat} (hh : high < 2 ^ w.bits) (hl : low < 2 ^ w.bits) :
    signedDouble w (high * 2 ^ w.bits + low) = signedNat w high * 2 ^ w.bits + low := by
  have reading := signedNat_cases w high
  unfold signedDouble
  split
  case isTrue large => cases w <;> simp only [Width.bits] at hh hl reading large ⊢ <;> omega
  case isFalse small => cases w <;> simp only [Width.bits] at hh hl reading small ⊢ <;> omega

theorem signedNat_eq_zero {w : Width} {v : Nat} (hv : v < 2 ^ w.bits) : signedNat w v = 0 ↔ v = 0 := by
  have reading := signedNat_cases w v
  cases w <;> simp only [Width.bits] at hv reading <;> omega

theorem quotientOverflows_eq (w : Width) (q : Int) :
    quotientOverflows w q = !decide (-(2 ^ (w.bits - 1) - 1) ≤ q ∧ q ≤ 2 ^ (w.bits - 1) - 1) := by
  rw [quotientOverflows, Bool.eq_iff_iff]
  simp only [Bool.or_eq_true, Bool.not_eq_true', decide_eq_true_eq, decide_eq_false_iff_not]
  omega

theorem ofIntW_toNat (w : Width) (v : Int) : (ofIntW w v).toNat = (v % 2 ^ w.bits).toNat := by
  have modulus_pos : (0 : Int) < 2 ^ w.bits := Int.pow_pos (by decide)
  have nonneg := Int.emod_nonneg v (Int.ne_of_gt modulus_pos)
  have below := Int.emod_lt_of_pos v modulus_pos
  rw [ofIntW, ofNatW_toNat]
  exact Nat.mod_eq_of_lt (by zify; omega)

/-- A signed number in range is read back from its low bits (R11). -/
theorem signedNat_ofIntW {w : Width} {v : Int} (hv : -2 ^ (w.bits - 1) ≤ v ∧ v < 2 ^ (w.bits - 1)) (old : Word) :
    signedNat w (lowNat w (merge w old (ofIntW w v))) = v := by
  have reading := signedNat_cases w (v % 2 ^ w.bits).toNat
  rw [lowNat_merge, lowNat, ofIntW_toNat]
  cases w <;> simp only [Width.bits] at hv reading ⊢ <;> rw [Nat.mod_eq_of_lt (by omega)] <;> omega

/-- N and Z of a signed quotient (R263). -/
theorem PS.setNZ_ofIntW (p : PS) {w : Width} {v : Int} (hv : -2 ^ (w.bits - 1) ≤ v ∧ v < 2 ^ (w.bits - 1)) :
    p.setNZ w (ofIntW w v) = { p with n := decide (v < 0), z := decide (v = 0) } := by
  have negative : 2 ^ (w.bits - 1) ≤ (v % 2 ^ w.bits).toNat % 2 ^ w.bits ↔ v < 0 := by
    cases w <;> simp only [Width.bits] at hv ⊢ <;> omega
  have zero : (v % 2 ^ w.bits).toNat % 2 ^ w.bits = 0 ↔ v = 0 := by
    cases w <;> simp only [Width.bits] at hv ⊢ <;> omega
  rw [setNZ_eq_nz p w _ _ rfl, PS.nz, ofIntW_toNat]
  simp only [negative, zero]

/-- A remainder is smaller than the divisor, which has `w` bits. -/
theorem tmod_signedNat_bounds (w : Width) (n : Int) {d : Nat} (hd : d < 2 ^ w.bits) (nonzero : d ≠ 0) :
    -2 ^ (w.bits - 1) ≤ n.tmod (signedNat w d) ∧ n.tmod (signedNat w d) < 2 ^ (w.bits - 1) := by
  have reading := signedNat_cases w d
  have below : (n.tmod (signedNat w d)).natAbs < (signedNat w d).natAbs := by
    rw [Int.natAbs_tmod]
    exact Nat.mod_lt _ (Int.natAbs_pos.mpr (mt (signedNat_eq_zero hd).mp nonzero))
  cases w <;> simp only [Width.bits] at hd reading ⊢ <;> omega

/-- Settles O39: the quotient rounded toward zero is in the printed range, or the division overflows. -/
theorem divideSigned : Obligations.DivideSigned := by
  intro src s nonzero
  have operand_lt := s.operandNat_lt s.wm src
  have divisor_ne := mt (signedNat_eq_zero operand_lt).mp nonzero
  have exec_eq : exec (.divs src) s = execDivs src s := rfl
  rw [execDivs] at exec_eq
  simp only [signedW_of_lt (s.operand_lt s.wm src), s.operand_toNat, s.dividend_eq,
    signedDouble_halves (lowNat_lt s.wm s.b) (lowNat_lt s.wm s.a), if_neg divisor_ne, quotientOverflows_eq] at exec_eq
  have remainder_bounds := tmod_signedNat_bounds s.wm (signedNat s.wm (lowNat s.wm s.b) * 2 ^ s.wm.bits + lowNat s.wm s.a)
    operand_lt nonzero
  generalize signedNat s.wm (lowNat s.wm s.b) * 2 ^ s.wm.bits + lowNat s.wm s.a = n at exec_eq remainder_bounds ⊢
  generalize signedNat s.wm (s.operandNat s.wm src) = d at exec_eq remainder_bounds ⊢
  by_cases inRange : -(2 ^ (s.wm.bits - 1) - 1) ≤ n.tdiv d ∧ n.tdiv d ≤ 2 ^ (s.wm.bits - 1) - 1
  · have quotient_bounds : -2 ^ (s.wm.bits - 1) ≤ n.tdiv d ∧ n.tdiv d < 2 ^ (s.wm.bits - 1) := by omega
    obtain ⟨t, ht, frame, bytes, a, b, ps⟩ :=
      s.setQuotient_effect s.wm src (ofIntW s.wm (n.tdiv d)) (ofIntW s.wm (n.tmod d))
    rw [decide_eq_true inRange, if_neg (by decide)] at exec_eq
    refine ⟨t, exec_eq.trans (congrArg _ ht.symm), frame, bytes, n, d, _, rfl, rfl, rfl, ?_⟩
    rw [if_pos inRange, a, b, signedNat_ofIntW quotient_bounds, signedNat_ofIntW remainder_bounds, ps,
      s.ps.setNZ_ofIntW quotient_bounds]
    refine ⟨rfl, ?_, (merge_lowBits s.wm s.a _).2, (merge_lowBits s.wm s.b _).2, rfl⟩
    rw [Int.tmod_def, Int.mul_comm]
  · obtain ⟨t, ht, frame, bytes, overflow⟩ := s.divideOverflow_effect s.wm src
    rw [decide_eq_false inRange, if_pos (by decide)] at exec_eq
    refine ⟨t, exec_eq.trans (congrArg _ ht.symm), frame, bytes, n, d, _, rfl, rfl, rfl, ?_⟩
    rw [if_neg inRange]
    exact overflow

/-! ## Division by 0 -/

/-- Taking an exception whose event has no level, from a state that differs from `s` in the bus only: IPL and every register
but S, PG, PC and PS stay (R372). -/
theorem State.enter_effect_of_bus {s : State} (hs : s.MemOk) (bus : Bus) (vec : Word) :
    ∃ t u, t = State.enter { s with bus := bus } s.next vec none ∧
      u = State.pushAll { s with bus := bus } (frameItems s.next s.ps) ∧ Pushes s t (frameBytes s.next s.ps) ∧
      t.pc.toNat = u.wordAt vec.toNat ∧
      t = { s with
        sp := t.sp, mem := t.mem, pg := 0x00#8, pc := t.pc, ps := { s.ps with i := true }, jumped := true
        bus := (u.after16 (mkAddr 0x00#8 vec)).bus } := by
  obtain ⟨pushes, pc, record⟩ := State.enter_effect { s with bus := bus } s.next vec none hs
  have plat := congrArg State.plat record
  exact ⟨_, _, rfl, rfl, pushes.of_mem rfl rfl rfl rfl rfl rfl plat, pc, record⟩

theorem exec_divide_by_zero {src : Src} {s : State} (h : s.operandNat s.wm src = 0) :
    exec (.div src) s = .next (s.afterOperand s.wm src).zeroDivision ∧
    exec (.divs src) s = .next (s.afterOperand s.wm src).zeroDivision := by
  have unsigned : (s.operand s.wm src).toNat = 0 := by rw [s.operand_toNat, h]
  have signed : signedW s.wm (s.operand s.wm src) = 0 := by
    rw [signedW_of_lt (s.operand_lt s.wm src), unsigned, (signedNat_eq_zero (Nat.two_pow_pos _)).mpr rfl]
  exact ⟨if_pos unsigned, if_pos signed⟩

/-- Settles O40: both divisions enter the handler, with the address of the next instruction as the return address. -/
theorem zeroDivision : Obligations.ZeroDivision := by
  intro src s hs h
  obtain ⟨div, divs⟩ := exec_divide_by_zero h
  rw [s.afterOperand_eq] at div divs ⊢
  obtain ⟨t, u, rfl, rfl, pushes, pc, record⟩ := State.enter_effect_of_bus hs (s.afterOperand s.wm src).bus vectorZeroDivision
  exact ⟨_, _, rfl, div, divs, pushes, pc, record⟩

/-! ## Decimal sums (R251) -/

theorem digit_congr {w : Width} {u v : Word} (h : lowNat w u = lowNat w v) {k : Nat} (hk : k < digitCount w) :
    digit u k = digit v k := by
  cases w with
  | w8 =>
    simp only [lowNat, Width.bits, digitCount, digit] at h hk ⊢
    obtain rfl | rfl : k = 0 ∨ k = 1 := by omega
    · omega
    · omega
  | w16 =>
    have : u = v := BitVec.eq_of_toNat_eq (by have := u.isLt; have := v.isLt; simp only [lowNat, Width.bits] at h; omega)
    rw [this]

/-- Whether the digits are valid depends on the low bits only. -/
theorem isBcd_congr {w : Width} {u v : Word} (h : lowNat w u = lowNat w v) : isBcd w u = isBcd w v := by
  rw [Bool.eq_iff_iff]
  simp only [isBcd, List.all_eq_true, List.mem_range, decide_eq_true_eq]
  exact forall₂_congr fun k hk => by rw [digit_congr h hk]

theorem decValue_congr {w : Width} {u v : Word} (h : lowNat w u = lowNat w v) : decValue w u = decValue w v := by
  cases w with
  | w8 => simp only [decValue, digit_congr h (show 0 < digitCount .w8 by decide), digit_congr h (show 1 < digitCount .w8 by decide)]
  | w16 =>
    simp only [decValue, digit_congr h (show 0 < digitCount .w16 by decide), digit_congr h (show 1 < digitCount .w16 by decide),
      digit_congr h (show 2 < digitCount .w16 by decide), digit_congr h (show 3 < digitCount .w16 by decide)]

/-- Four digits put together are taken apart again. -/
theorem digits_toNat {d0 d1 d2 d3 : Nat} (h0 : d0 < 10) (h1 : d1 < 10) (h2 : d2 < 10) (h3 : d3 < 10) :
    let v := BitVec.ofNat 16 (d0 + 16 * d1 + 256 * d2 + 4096 * d3)
    digit v 0 = d0 ∧ digit v 1 = d1 ∧ digit v 2 = d2 ∧ digit v 3 = d3 := by
  simp only [digit, BitVec.toNat_ofNat, Nat.reducePow, Nat.div_one]
  omega

theorem digit_bcdWord (n : Nat) {k : Nat} (hk : k < 4) : digit (bcdWord n) k = n / 10 ^ k % 10 := by
  have digit_lt (m : Nat) : m % 10 < 10 := Nat.mod_lt m (by decide)
  obtain ⟨d0, d1, d2, d3⟩ := digits_toNat (digit_lt n) (digit_lt (n / 10)) (digit_lt (n / 100)) (digit_lt (n / 1000))
  interval_cases k
  · rw [Nat.pow_zero, Nat.div_one]; exact d0
  · exact d1
  · exact d2
  · exact d3

theorem isBcd_bcdWord (w : Width) (n : Nat) : isBcd w (bcdWord n) = true := by
  simp only [isBcd, List.all_eq_true, List.mem_range, decide_eq_true_eq]
  intro k hk
  rw [digit_bcdWord n (by cases w <;> simp only [digitCount] at hk <;> omega)]
  exact Nat.mod_lt _ (by decide)

theorem decValue_bcdWord {w : Width} {n : Nat} (h : n < decLimit w) : decValue w (bcdWord n) = n := by
  cases w <;> simp only [decLimit, digitCount] at h <;> simp [decValue, digit_bcdWord] <;> omega

/-- The result of a decimal sum in the low bits of a register. -/
theorem merge_bcdWord {w : Width} {n : Nat} (h : n < decLimit w) (old : Word) :
    isBcd w (merge w old (bcdWord n)) = true ∧ decValue w (merge w old (bcdWord n)) = n := by
  have low := lowNat_merge w old (bcdWord n)
  rw [isBcd_congr low, decValue_congr low, decValue_bcdWord h]
  exact ⟨isBcd_bcdWord w n, rfl⟩

theorem lowNat_accW (s : State) (r : Acc) (w : Width) : lowNat w (s.accW r w) = lowNat w (s.acc r) := by
  rw [lowNat, s.accW_toNat, Nat.mod_eq_of_lt (lowNat_lt w _)]

theorem merge_high (w : Width) (old v : Word) : LowBits w old (merge w old v) (merge w old v).toNat :=
  ⟨rfl, (merge_lowBits w old v).2⟩

/-- ADC in decimal mode: some result and some flags, with valid digits those of `addDec` (R251, D13). -/
theorem State.addDecimal_eq (s : State) (r : Acc) (w : Width) (b : Word) :
    ∃ (res : Word) (n v z c : Bool),
      s.addDecimal r w b = { s.setAcc r w res with ps := { s.ps with n := n, v := v, z := z, c := c } } ∧
      (isBcd w (s.accW r w) = true → isBcd w b = true →
        res = (addDec w (s.accW r w) b s.ps.c).1 ∧ c = (addDec w (s.accW r w) b s.ps.c).2) :=
  ⟨_, _, _, _, _, rfl, fun accBcd operandBcd => by simp only [accBcd, operandBcd, Bool.and_self, if_true, and_self]⟩

/-- SBC in decimal mode likewise; here Z is stated too. -/
theorem State.subDecimal_eq (s : State) (r : Acc) (w : Width) (b : Word) :
    ∃ (res : Word) (n v z c : Bool),
      s.subDecimal r w b = { s.setAcc r w res with ps := { s.ps with n := n, v := v, z := z, c := c } } ∧
      (isBcd w (s.accW r w) = true → isBcd w b = true →
        res = (subDec w (s.accW r w) b s.ps.c).1 ∧ c = (subDec w (s.accW r w) b s.ps.c).2 ∧
          z = isZero w (subDec w (s.accW r w) b s.ps.c).1) :=
  ⟨_, _, _, _, _, rfl, fun accBcd operandBcd => by simp only [accBcd, operandBcd, Bool.and_self, if_true, and_self]⟩

/-- An instruction that reads an operand and leaves a result in the accumulator `r` and four flags. -/
theorem exec_decimal_effect {i : Instr} {s : State} {r : Acc} {src : Src} {res : Word} {n v z c : Bool}
    (h : exec i s = .next { (s.afterOperand s.wm src).setAcc r s.wm res with
      ps := { (s.afterOperand s.wm src).ps with n := n, v := v, z := z, c := c } }) :
    ∃ t, exec i s = .next t ∧ OnlyAcc r (s.afterOperand s.wm src) t ∧ SameBytes s t ∧
      t.ps = { s.ps with n := n, v := v, z := z, c := c } ∧ t.acc r = merge s.wm (s.acc r) res := by
  refine ⟨_, h, State.onlyAcc_setAcc _ _ r s.wm res rfl, ?_, ?_, ?_⟩
  · exact SameBytes.of_mem (s.afterOperand_mem s.wm src) (s.afterOperand_plat s.wm src)
  · rw [s.afterOperand_ps]
  · rw [← s.afterOperand_acc s.wm src r]
    cases r <;> rfl

theorem State.afterOperand_accW (s : State) (w : Width) (src : Src) (r : Acc) :
    (s.afterOperand w src).accW r w = s.accW r w := by
  rw [State.accW, s.afterOperand_acc, State.accW]

/-- Borrowing one `10^k` makes a difference of decimal numbers a natural number (R251). -/
theorem decimal_difference {limit a taken : Nat} (h : taken ≤ limit) :
    ((a + limit - taken) % limit : Nat) = ((a : Int) - taken) % limit := by
  have nat_diff : ((a + limit - taken : Nat) : Int) = (a : Int) - taken + limit := by omega
  rw [Int.natCast_mod, nat_diff, Int.add_emod_right]

theorem decValue_lt {w : Width} {v : Word} (h : isBcd w v = true) : decValue w v < decLimit w := by
  simp only [isBcd, List.all_eq_true, List.mem_range, decide_eq_true_eq] at h
  cases w with
  | w8 =>
    have d0 := h 0 (by decide)
    have d1 := h 1 (by decide)
    simp only [decValue, decLimit, digitCount]
    omega
  | w16 =>
    have d0 := h 0 (by decide)
    have d1 := h 1 (by decide)
    have d2 := h 2 (by decide)
    have d3 := h 3 (by decide)
    simp only [decValue, decLimit, digitCount]
    omega

/-- Settles O34: with valid digits the result is the BCD form of the sum or difference modulo `10^k`; the free values go to
N, V, Z, C and the low bits only. -/
theorem decimalAddSubtract : Obligations.DecimalAddSubtract := by
  intro r src s hd
  have limit_pos : 0 < decLimit s.wm := Nat.pow_pos (by decide)
  have acc_low := lowNat_accW s r s.wm
  constructor
  case left =>
    obtain ⟨res, n, v, z, c, sum_eq, valid⟩ := (s.afterOperand s.wm src).addDecimal_eq r s.wm (s.operand s.wm src)
    obtain ⟨t, next, frame, bytes, ps, acc⟩ := exec_decimal_effect (i := .adc r src)
      ((if_pos hd : execAdc r src s = _).trans (congrArg _ sum_eq))
    refine ⟨t, next, frame, bytes, by rw [ps], acc ▸ merge_high _ _ _, fun accBcd operandBcd => ⟨_, rfl, ?_⟩⟩
    rw [s.afterOperand_accW, s.afterOperand_ps] at valid
    obtain ⟨rfl, rfl⟩ := valid ((isBcd_congr acc_low).trans accBcd) operandBcd
    obtain ⟨bcd, value⟩ := merge_bcdWord (Nat.mod_lt
      (decValue s.wm (s.acc r) + decValue s.wm (s.operand s.wm src) + s.ps.c.toNat) limit_pos) (s.acc r)
    rw [acc, ps, addDec, decValue_congr acc_low]
    exact ⟨bcd, value, rfl⟩
  case right =>
    obtain ⟨res, n, v, z, c, diff_eq, valid⟩ := (s.afterOperand s.wm src).subDecimal_eq r s.wm (s.operand s.wm src)
    obtain ⟨t, next, frame, bytes, ps, acc⟩ := exec_decimal_effect (i := .sbc r src)
      ((if_pos hd : execSbc r src s = _).trans (congrArg _ diff_eq))
    refine ⟨t, next, frame, bytes, by rw [ps], acc ▸ merge_high _ _ _, fun accBcd operandBcd => ⟨_, rfl, ?_⟩⟩
    rw [s.afterOperand_accW, s.afterOperand_ps] at valid
    obtain ⟨rfl, rfl, rfl⟩ := valid ((isBcd_congr acc_low).trans accBcd) operandBcd
    have taken_le : decValue s.wm (s.operand s.wm src) + (!s.ps.c).toNat ≤ decLimit s.wm := by
      have := decValue_lt operandBcd
      have := (!s.ps.c).toNat_le
      omega
    obtain ⟨bcd, value⟩ := merge_bcdWord (Nat.mod_lt (decValue s.wm (s.acc r) + decLimit s.wm -
      (decValue s.wm (s.operand s.wm src) + (!s.ps.c).toNat)) limit_pos) (s.acc r)
    rw [acc, ps, subDec, decValue_congr acc_low, isZero_eq, lowNat_merge]
    refine ⟨bcd, ?_, ?_, rfl⟩
    · rw [value, decimal_difference taken_le]
      push_cast
      congr 1
      omega
    · rw [decide_eq_decide]
      omega

end Sys2Proof.Machine
end

section
/-! Stack instructions (43_stack.md): pushes of one register and of computed values, pulls of DPR, PS and DT, PSH and PUL, and
that PUL undoes PSH. -/

namespace Sys2Proof.Machine

/-! ## Pushes -/

/-- An instruction that pushes `v` (R211). -/
theorem exec_push_effect {i : Instr} {s : State} {w : Width} {v : Word} (hs : s.MemOk) (h : exec i s = .next (s.pushW w v)) :
    ∃ t, exec i s = .next t ∧ Pushes s t (pushBytes w v) ∧
      t = { s with sp := t.sp, mem := t.mem, bus := (s.pushAll [(w, v)]).bus } :=
  ⟨_, h, s.pushW_pushes w v hs, s.pushW_eq w v⟩

theorem push8_eq_pushW (s : State) (v : Byte) : s.push8 v = s.pushW .w8 (ofByte v) := by
  rw [State.pushW, loByte_ofByte]

/-- Settles O22: each of the eight is one push of a register. -/
theorem singlePushes : Obligations.SinglePushes := by
  refine ⟨rfl, rfl, rfl, rfl, rfl, rfl, rfl, rfl, fun s hs => ?_⟩
  simp only [List.forall_mem_cons, List.not_mem_nil, false_implies, implies_true, and_true]
  exact ⟨exec_push_effect (i := .pha) hs rfl, exec_push_effect (i := .phb) hs rfl, exec_push_effect (i := .phd) hs rfl,
    exec_push_effect (i := .phg) hs (congrArg Host.Outcome.next (push8_eq_pushW s s.pg)),
    exec_push_effect (i := .php) hs rfl,
    exec_push_effect (i := .pht) hs (congrArg Host.Outcome.next (push8_eq_pushW s s.dt)),
    exec_push_effect (i := .phx) hs rfl, exec_push_effect (i := .phy) hs rfl⟩

theorem wordBytes_eq (v : Word) : wordBytes v = [BitVec.ofNat 8 v.toNat, BitVec.ofNat 8 (v.toNat / 256)] := by
  rw [byte_ofNat_toNat, byte_ofNat_div]; rfl

theorem addrOfNat_direct (s : State) (dd : Byte) : addrOfNat (s.dpr.toNat + dd.toNat) = s.direct dd := by
  rw [← s.direct_toNat, addrOfNat_toNat]

/-- Settles O23: three pushes of a word; the one of PEI comes after the read of its word. -/
theorem computedPushes : Obligations.ComputedPushes := by
  intro imm dd s hs
  rw [← wordBytes_eq]
  refine ⟨rfl, rfl, rfl, exec_push_effect (i := .pea imm) (w := .w16) hs rfl, ?pei, ?per⟩
  case pei =>
    have word : s.read16 (s.direct dd) = BitVec.ofNat 16 (s.wordAt (s.dpr.toNat + dd.toNat)) := by
      rw [State.wordAt, addrOfNat_direct, BitVec.ofNat_toNat, BitVec.setWidth_eq]
    rw [addrOfNat_direct, ← word]
    have plat : ((s.after16 (s.direct dd)).push16 (s.read16 (s.direct dd))).plat = s.plat := State.pushW_plat _ .w16 _
    exact ⟨_, _, rfl, rfl, (State.push16_pushes (s.after16 (s.direct dd)) _ hs).of_mem rfl rfl rfl rfl rfl rfl plat,
      State.pushW_eq (s.after16 (s.direct dd)) .w16 _⟩
  case per =>
    have sum : s.pc + imm = BitVec.ofNat 16 (s.pc.toNat + imm.toNat) := by
      apply BitVec.eq_of_toNat_eq
      rw [BitVec.toNat_add, BitVec.toNat_ofNat]
    rw [← sum]
    obtain ⟨t, next, pushes, frame⟩ := exec_push_effect (i := .per imm) (w := .w16) hs rfl
    exact ⟨t, _, rfl, next, pushes, frame⟩

/-! ## Pulls of DPR, PS and DT -/

/-- Settles O25: a pull of a word to DPR or PS, of a byte to DT. -/
theorem pullControlRegisters : Obligations.PullControlRegisters := by
  refine ⟨rfl, rfl, rfl, fun s => ⟨?pld, ?plp, ?plt⟩⟩
  case pld =>
    have next : exec .pld s = .next { s.drop16 with dpr := s.top16 } := rfl
    rw [s.drop16_record] at next
    exact ⟨_, next, s.top16_toNat, rfl, SameBytes.of_mem rfl rfl⟩
  case plp =>
    have next : exec .plp s = .next { s.drop16 with ps := PS.ofWord s.top16 } := rfl
    rw [s.drop16_record] at next
    exact ⟨_, next, (PS.ofWord_toWord_toNat s.top16).trans (by rw [s.top16_toNat]), rfl, SameBytes.of_mem rfl rfl⟩
  case plt =>
    have flags : s.ps.setNZ .w8 (ofByte s.top8) = s.ps.nz .w8 (s.pulledNat [] .w8) :=
      setNZ_eq_nz s.ps .w8 _ _ (by rw [ofByte_toNat, s.top8_toNat])
    have next : exec .plt s = .next { s.drop8 with dt := s.top8, ps := s.ps.setNZ .w8 (ofByte s.top8) } := rfl
    rw [s.drop8_record, flags] at next
    exact ⟨_, next, s.top8_toNat, rfl, rfl, SameBytes.of_mem rfl rfl⟩

/-! ## PSH -/

/-- A register that is pushed if its bit of the mask is 1. -/
def maskItem (bit : Bool) (w : Width) (v : Word) : List (Width × Word) := if bit then [(w, v)] else []

/-- The registers that PSH pushes, in the order of R212. -/
def pshItems (nn : Byte) (s : State) : List (Width × Word) :=
  maskItem (nn.getLsbD 0) s.wm s.a ++ maskItem (nn.getLsbD 1) s.wm s.b ++ maskItem (nn.getLsbD 2) s.wx s.x ++
  maskItem (nn.getLsbD 3) s.wx s.y ++ maskItem (nn.getLsbD 4) .w16 s.dpr ++ maskItem (nn.getLsbD 5) .w8 (ofByte s.dt) ++
  maskItem (nn.getLsbD 6) .w8 (ofByte s.pg) ++ maskItem (nn.getLsbD 7) .w16 s.ps.toWord

theorem exec_psh_eq (nn : Byte) (s : State) : exec (.psh nn) s = .next (s.pushAll (pshItems nn s)) := by
  change execPsh nn s = _
  simp only [execPsh, State.pushIf_eq, ← State.pushAll_append]
  rfl

/-- Settles O26: PSH is the pushes of the registers of the mask, one after the other. -/
theorem pushRegisterSet : Obligations.PushRegisterSet := fun nn s hs =>
  ⟨rfl, _, pshItems nn s, rfl, exec_psh_eq nn s, s.pushAll_eq _, s.pushAll_pushes _ hs⟩

/-! ## PUL -/

/-- `t` is `s` after pulls of the given widths, some of them into registers. -/
def PulledFrom (s t : State) (widths : List Width) : Prop :=
  t = { s.afterPulls widths with a := t.a, b := t.b, x := t.x, y := t.y, dpr := t.dpr, dt := t.dt, ps := t.ps }

theorem PulledFrom.refl (s : State) : PulledFrom s s [] := rfl

section PulledFrom

variable {s t : State} {l : List Width}

theorem PulledFrom.sp (h : PulledFrom s t l) : t.sp = (s.afterPulls l).sp := by unfold PulledFrom at h; rw [h]
theorem PulledFrom.pc (h : PulledFrom s t l) : t.pc = (s.afterPulls l).pc := by unfold PulledFrom at h; rw [h]
theorem PulledFrom.pg (h : PulledFrom s t l) : t.pg = (s.afterPulls l).pg := by unfold PulledFrom at h; rw [h]
theorem PulledFrom.mem (h : PulledFrom s t l) : t.mem = (s.afterPulls l).mem := by unfold PulledFrom at h; rw [h]
theorem PulledFrom.plat (h : PulledFrom s t l) : t.plat = (s.afterPulls l).plat := by unfold PulledFrom at h; rw [h]
theorem PulledFrom.bus (h : PulledFrom s t l) : t.bus = (s.afterPulls l).bus := by unfold PulledFrom at h; rw [h]
theorem PulledFrom.jumped (h : PulledFrom s t l) : t.jumped = (s.afterPulls l).jumped := by
  unfold PulledFrom at h; rw [h]

theorem PulledFrom.frame (h : PulledFrom s t l) : t = { s with
    a := t.a, b := t.b, x := t.x, y := t.y, dpr := t.dpr, dt := t.dt, ps := t.ps, sp := t.sp, bus := t.bus } := by
  unfold PulledFrom at h
  rw [State.afterPulls_eq] at h
  rw [h]

/-- The next pull finds what it would find after those pulls. -/
theorem PulledFrom.pulledNat (h : PulledFrom s t l) (w : Width) : t.pulledNat [] w = s.pulledNat l w := by
  rw [State.pulledNat_of_pulls (l := l) (by rw [h.pg, h.pc, h.jumped]; exact h), List.append_nil]

/-- One pull more, into a register. -/
theorem PulledFrom.dropW {u : State} {w : Width} (h : PulledFrom s t l)
    (hu : u = { t.dropW w with a := u.a, b := u.b, x := u.x, y := u.y, dpr := u.dpr, dt := u.dt, ps := u.ps }) :
    PulledFrom s u (l ++ [w]) := by
  have bus : (t.afterPulls [w]).bus = ((s.afterPulls l).afterPulls [w]).bus :=
    (State.topW_congr w h.sp h.mem h.plat h.bus).2
  have step : (s.afterPulls l).afterPulls [w] = (s.afterPulls l).dropW w := rfl
  rw [PulledFrom, State.afterPulls_append, step, State.dropW_record, ← bus]
  rw [State.dropW_record] at hu
  generalize (t.afterPulls [w]).bus = b at hu ⊢
  unfold PulledFrom at h
  rw [h] at hu
  exact hu

end PulledFrom

section Steps

variable {s t : State} {l : List Width}

/-- The PS step of PUL, after pulls of the widths `l` (R213). -/
theorem State.pullPsIf_effect (h : PulledFrom s t l) (bit : Bool) :
    ∃ u, u = t.pullPsIf bit ∧ PulledFrom s u (l ++ if bit then [.w16] else []) ∧
      u = { t with sp := u.sp, bus := u.bus, ps := u.ps } ∧
      if bit then u.ps.toWord.toNat = s.pulledNat l .w16 % 2048 else u.ps = t.ps := by
  cases bit with
  | false => exact ⟨t, rfl, by simpa using h, rfl, rfl⟩
  | true =>
    have record : t.pullPsIf true = { t.dropW .w16 with ps := PS.ofWord t.top16 } := rfl
    refine ⟨_, rfl, h.dropW rfl, by rw [record, State.dropW_record], ?_⟩
    rw [if_pos rfl, record, PS.ofWord_toWord_toNat, State.top16_toNat, h.pulledNat]

theorem State.pullDtIf_effect (h : PulledFrom s t l) (bit : Bool) :
    ∃ u, u = t.pullDtIf bit ∧ PulledFrom s u (l ++ if bit then [.w8] else []) ∧
      u = { t with sp := u.sp, bus := u.bus, dt := u.dt } ∧
      if bit then u.dt.toNat = s.pulledNat l .w8 else u.dt = t.dt := by
  cases bit with
  | false => exact ⟨t, rfl, by simpa using h, rfl, rfl⟩
  | true =>
    have record : t.pullDtIf true = { t.dropW .w8 with dt := t.top8 } := rfl
    refine ⟨_, rfl, h.dropW rfl, by rw [record, State.dropW_record], ?_⟩
    rw [if_pos rfl, record, State.top8_toNat, h.pulledNat]

theorem State.pullDprIf_effect (h : PulledFrom s t l) (bit : Bool) :
    ∃ u, u = t.pullDprIf bit ∧ PulledFrom s u (l ++ if bit then [.w16] else []) ∧
      u = { t with sp := u.sp, bus := u.bus, dpr := u.dpr } ∧
      if bit then u.dpr.toNat = s.pulledNat l .w16 else u.dpr = t.dpr := by
  cases bit with
  | false => exact ⟨t, rfl, by simpa using h, rfl, rfl⟩
  | true =>
    have record : t.pullDprIf true = { t.dropW .w16 with dpr := t.top16 } := rfl
    refine ⟨_, rfl, h.dropW rfl, by rw [record, State.dropW_record], ?_⟩
    rw [if_pos rfl, record, State.top16_toNat, h.pulledNat]

theorem State.pullYIf_effect (h : PulledFrom s t l) (bit : Bool) :
    ∃ u, u = t.pullYIf bit ∧ PulledFrom s u (l ++ if bit then [t.wx] else []) ∧
      u = { t with sp := u.sp, bus := u.bus, y := u.y } ∧
      if bit then LowBits t.wx t.y u.y (s.pulledNat l t.wx) else u.y = t.y := by
  cases bit with
  | false => exact ⟨t, rfl, by simpa using h, rfl, rfl⟩
  | true =>
    have record : t.pullYIf true =
        { t.dropW t.wx with y := merge t.wx t.y (t.topW t.wx) } := by
      change (t.dropW t.wx).setY (t.topW t.wx) = _
      rw [t.dropW_record]; rfl
    refine ⟨_, rfl, h.dropW (by rw [record]), by rw [record, State.dropW_record], ?_⟩
    rw [if_pos rfl, record, ← h.pulledNat, ← State.topW_toNat]
    exact merge_lowBits _ _ _

theorem State.pullXIf_effect (h : PulledFrom s t l) (bit : Bool) :
    ∃ u, u = t.pullXIf bit ∧ PulledFrom s u (l ++ if bit then [t.wx] else []) ∧
      u = { t with sp := u.sp, bus := u.bus, x := u.x } ∧
      if bit then LowBits t.wx t.x u.x (s.pulledNat l t.wx) else u.x = t.x := by
  cases bit with
  | false => exact ⟨t, rfl, by simpa using h, rfl, rfl⟩
  | true =>
    have record : t.pullXIf true =
        { t.dropW t.wx with x := merge t.wx t.x (t.topW t.wx) } := by
      change (t.dropW t.wx).setX (t.topW t.wx) = _
      rw [t.dropW_record]; rfl
    refine ⟨_, rfl, h.dropW (by rw [record]), by rw [record, State.dropW_record], ?_⟩
    rw [if_pos rfl, record, ← h.pulledNat, ← State.topW_toNat]
    exact merge_lowBits _ _ _

theorem State.pullAccIf_b_effect (h : PulledFrom s t l) (bit : Bool) :
    ∃ u, u = t.pullAccIf bit .b ∧ PulledFrom s u (l ++ if bit then [t.wm] else []) ∧
      u = { t with sp := u.sp, bus := u.bus, b := u.b } ∧
      if bit then LowBits t.wm t.b u.b (s.pulledNat l t.wm) else u.b = t.b := by
  cases bit with
  | false => exact ⟨t, rfl, by simpa using h, rfl, rfl⟩
  | true =>
    have record : t.pullAccIf true .b =
        { t.dropW t.wm with b := merge t.wm t.b (t.topW t.wm) } := by
      change (t.dropW t.wm).setAcc .b t.wm (t.topW t.wm) = _
      rw [t.dropW_record]; rfl
    refine ⟨_, rfl, h.dropW (by rw [record]), by rw [record, State.dropW_record], ?_⟩
    rw [if_pos rfl, record, ← h.pulledNat, ← State.topW_toNat]
    exact merge_lowBits _ _ _

theorem State.pullAccIf_a_effect (h : PulledFrom s t l) (bit : Bool) :
    ∃ u, u = t.pullAccIf bit .a ∧ PulledFrom s u (l ++ if bit then [t.wm] else []) ∧
      u = { t with sp := u.sp, bus := u.bus, a := u.a } ∧
      if bit then LowBits t.wm t.a u.a (s.pulledNat l t.wm) else u.a = t.a := by
  cases bit with
  | false => exact ⟨t, rfl, by simpa using h, rfl, rfl⟩
  | true =>
    have record : t.pullAccIf true .a =
        { t.dropW t.wm with a := merge t.wm t.a (t.topW t.wm) } := by
      change (t.dropW t.wm).setAcc .a t.wm (t.topW t.wm) = _
      rw [t.dropW_record]; rfl
    refine ⟨_, rfl, h.dropW (by rw [record]), by rw [record, State.dropW_record], ?_⟩
    rw [if_pos rfl, record, ← h.pulledNat, ← State.topW_toNat]
    exact merge_lowBits _ _ _

end Steps

/-- Settles O27: the seven steps of PUL one after the other; each leaves the registers of the others, and after the PS step the
widths, as they are. -/
theorem pullRegisterSet : Obligations.PullRegisterSet := by
  intro nn s
  obtain ⟨u1, e1, p1, f1, ps⟩ := State.pullPsIf_effect (.refl s) (nn.getLsbD 7)
  rw [List.nil_append] at p1
  obtain ⟨u2, e2, p2, f2, dt⟩ := State.pullDtIf_effect p1 (nn.getLsbD 5)
  obtain ⟨u3, e3, p3, f3, dpr⟩ := State.pullDprIf_effect p2 (nn.getLsbD 4)
  obtain ⟨u4, e4, p4, f4, y⟩ := State.pullYIf_effect p3 (nn.getLsbD 3)
  obtain ⟨u5, e5, p5, f5, x⟩ := State.pullXIf_effect p4 (nn.getLsbD 2)
  obtain ⟨u6, e6, p6, f6, b⟩ := State.pullAccIf_b_effect p5 (nn.getLsbD 1)
  obtain ⟨t, e7, p7, f7, a⟩ := State.pullAccIf_a_effect p6 (nn.getLsbD 0)
  have next : exec (.pul nn) s = .next t := by rw [e7, e6, e5, e4, e3, e2, e1]; rfl
  have ps6 : t.ps = u6.ps := by rw [f7]
  have ps5 : t.ps = u5.ps := by rw [f7, f6]
  have ps4 : t.ps = u4.ps := by rw [f7, f6, f5]
  have ps3 : t.ps = u3.ps := by rw [f7, f6, f5, f4]
  have ps1 : t.ps = u1.ps := by rw [f7, f6, f5, f4, f3, f2]
  have wx3 : u3.wx = t.wx := congrArg PS.wx ps3.symm
  have wx4 : u4.wx = t.wx := congrArg PS.wx ps4.symm
  have wm5 : u5.wm = t.wm := congrArg PS.wm ps5.symm
  have wm6 : u6.wm = t.wm := congrArg PS.wm ps6.symm
  have dt2 : t.dt = u2.dt := by rw [f7, f6, f5, f4, f3]
  have dt1 : u1.dt = s.dt := by rw [f1]
  have dpr3 : t.dpr = u3.dpr := by rw [f7, f6, f5, f4]
  have dpr2 : u2.dpr = s.dpr := by rw [f2, f1]
  have y4 : t.y = u4.y := by rw [f7, f6, f5]
  have y3 : u3.y = s.y := by rw [f3, f2, f1]
  have x5 : t.x = u5.x := by rw [f7, f6]
  have x4 : u4.x = s.x := by rw [f4, f3, f2, f1]
  have b6 : t.b = u6.b := by rw [f7]
  have b5 : u5.b = s.b := by rw [f5, f4, f3, f2, f1]
  have a6 : u6.a = s.a := by rw [f6, f5, f4, f3, f2, f1]
  rw [wx3, wx4, wm5, wm6] at p7
  rw [wx3, y3, ← y4] at y
  rw [wx4, wx3, x4, ← x5] at x
  rw [wm5, wx4, wx3, b5, ← b6] at b
  rw [wm6, wm5, wx4, wx3, a6] at a
  rw [dt1, ← dt2] at dt
  rw [dpr2, ← dpr3] at dpr
  rw [← ps1] at ps
  have frame := p7.frame
  exact ⟨rfl, t, next, frame, SameBytes.of_mem (by rw [frame]) (by rw [frame]), _, _, _, _, _, _, _, rfl, rfl, rfl, rfl, rfl,
    rfl, rfl, p7.sp.trans (s.afterPulls_sp _), p7.bus, ps, dt, dpr, y, x, b, a⟩

/-! ## PUL after PSH -/

theorem itemBytes_append (l m : List (Width × Word)) : itemBytes (l ++ m) = itemBytes l ++ itemBytes m := by
  induction l with
  | nil => rfl
  | cons c rest ih => rw [List.cons_append, itemBytes, itemBytes, ih, List.append_assoc]

/-- A value pushed among others is pulled after the pulls of those pushed after it. -/
theorem State.pulledNat_pushAll {s : State} (hs : s.MemOk) {l r : List (Width × Word)} {w : Width} {v : Word}
    {before : List Width} (small : (itemBytes (l ++ (w, v) :: r)).length ≤ 65536)
    (ram : stackIsRam s.plat s.sp (itemBytes (l ++ (w, v) :: r)).length) (hb : pullCount before = (itemBytes r).length) :
    (s.pushAll (l ++ (w, v) :: r)).pulledNat before w = lowNat w v := by
  have bytes_eq : itemBytes (l ++ (w, v) :: r) = itemBytes l ++ pushBytes w v ++ itemBytes r := by
    rw [itemBytes_append, itemBytes, List.append_assoc]
  have pushes := s.pushAll_pushes (l ++ (w, v) :: r) hs
  rw [bytes_eq] at pushes small ram
  exact pushes.pulledNat (by rw [State.pushAll_eq]) small ram hb

/-- A register whose low bits are written with the bits they had. -/
theorem LowBits.eq_old {w : Width} {old new : Word} {n : Nat} (h : LowBits w old new n) (hn : n = lowNat w old) :
    new = old := by
  obtain ⟨low, high⟩ := h
  rw [hn, lowNat, Nat.mod_mod] at low
  apply BitVec.eq_of_toNat_eq
  rw [← Nat.div_add_mod new.toNat (2 ^ w.bits), low, high, Nat.div_add_mod]

theorem PS.toWord_injective {p q : PS} (h : p.toWord.toNat = q.toWord.toNat) : p = q := by
  rw [← p.ofWord_toWord, BitVec.eq_of_toNat_eq h, q.ofWord_toWord]

theorem PS.toWord_lt (p : PS) : p.toWord.toNat < 2048 := by
  have low_lt := p.low.isLt
  have ipl_lt := p.ipl.isLt
  rw [p.toWord_toNat]
  omega

/-- How many bytes a register of width `w` takes on the stack, if its bit of the mask is 1. -/
def maskCount (bit : Bool) (w : Width) : Nat := if bit then w.bits / 8 else 0

theorem maskCount_le (bit : Bool) (w : Width) : maskCount bit w ≤ w.bits / 8 ∧ w.bits / 8 ≤ 2 := by
  cases bit <;> cases w <;> decide

theorem pullCount_mask (bit : Bool) (w : Width) : pullCount (if bit then [w] else []) = maskCount bit w := by
  cases bit <;> simp [pullCount, maskCount]

theorem itemBytes_mask (bit : Bool) (w : Width) (v : Word) :
    (itemBytes (maskItem bit w v)).length = maskCount bit w := by
  cases bit <;> simp [itemBytes, maskItem, maskCount, pushBytes_length]

/-- With bit 6 clear PSH pushes at most 13 bytes. -/
theorem pshItems_length_le {nn : Byte} (b6 : nn.getLsbD 6 = false) (s : State) : (itemBytes (pshItems nn s)).length ≤ 13 := by
  have a := maskCount_le (nn.getLsbD 0) s.wm
  have b := maskCount_le (nn.getLsbD 1) s.wm
  have x := maskCount_le (nn.getLsbD 2) s.wx
  have y := maskCount_le (nn.getLsbD 3) s.wx
  have dpr := maskCount_le (nn.getLsbD 4) .w16
  have dt : maskCount (nn.getLsbD 5) .w8 ≤ 1 := (maskCount_le (nn.getLsbD 5) .w8).1
  have pg : maskCount (nn.getLsbD 6) .w8 = 0 := by rw [b6]; rfl
  have ps := maskCount_le (nn.getLsbD 7) .w16
  simp only [pshItems, itemBytes_append, List.length_append, itemBytes_mask]
  omega

theorem foldl_append_eq (l : List (Width × Word)) (later : List (List (Width × Word))) :
    later.foldl (· ++ ·) l = l ++ later.flatten := by
  induction later generalizing l with
  | nil => rw [List.foldl_nil, List.flatten_nil, List.append_nil]
  | cons m rest ih => rw [List.foldl_cons, ih, List.flatten_cons, List.append_assoc]

/-- A register of the mask, pushed before the items `later`, is found by the pulls after those of `later`. -/
theorem State.pulledNat_psh {s : State} (hs : s.MemOk) {nn : Byte} (b6 : nn.getLsbD 6 = false)
    (ram : stackIsRam s.plat s.sp 13) {l : List (Width × Word)} (later : List (List (Width × Word))) {bit : Bool} {w : Width}
    {v : Word} {before : List Width} (split : pshItems nn s = later.foldl (· ++ ·) (l ++ maskItem bit w v))
    (hbit : bit = true) (hb : pullCount before = (itemBytes later.flatten).length) :
    (s.pushAll (pshItems nn s)).pulledNat before w = lowNat w v := by
  have length_le := pshItems_length_le b6 s
  subst hbit
  rw [foldl_append_eq, List.append_assoc] at split
  rw [split] at length_le ⊢
  exact State.pulledNat_pushAll hs (Nat.le_trans length_le (by decide))
    (fun k hk => ram k (Nat.lt_of_lt_of_le hk length_le)) hb

theorem mask_cases {bit : Bool} {P Q R : Prop} (h : if bit then P else Q) (hP : bit = true → P → R) (hQ : Q → R) : R := by
  cases bit with
  | false => exact hQ h
  | true => exact hP rfl h

/-- A pull more for an item that was pushed before the others. -/
theorem count_cons {before : List Width} {later : List (List (Width × Word))}
    (h : pullCount before = (itemBytes later.flatten).length) (bit : Bool) (w : Width) (v : Word) :
    pullCount (before ++ if bit then [w] else []) = (itemBytes (maskItem bit w v :: later).flatten).length := by
  rw [pullCount_append, pullCount_mask, h, List.flatten_cons, itemBytes_append, List.length_append, itemBytes_mask,
    Nat.add_comm]

/-- Settles O28: each register of the mask is found where PSH put it, PS first, so that the widths are those of PSH. -/
theorem pullUndoesPush : Obligations.PullUndoesPush := by
  intro nn s hs b6 ram13
  have length_le := pshItems_length_le b6 s
  have ram : stackIsRam s.plat s.sp (itemBytes (pshItems nn s)).length := fun k hk => ram13 k (by omega)
  have record := State.pushAll_of_ram ram
  have pushes := s.pushAll_pushes (pshItems nn s) hs
  have pulled := @State.pulledNat_psh s hs nn b6 ram13
  obtain ⟨-, u, next, frame, -, _, _, _, _, _, _, _, rfl, rfl, rfl, rfl, rfl, rfl, rfl, sp, bus, ps, dt, dpr, y, x, b, a⟩ :=
    pullRegisterSet nn (s.pushAll (pshItems nn s))
  have u_ps : u.ps = s.ps := mask_cases ps
    (fun bit value => PS.toWord_injective (by
      rw [value, pulled [] rfl bit rfl, lowNat_of_lt s.ps.toWord.isLt, Nat.mod_eq_of_lt s.ps.toWord_lt]))
    (fun same => by rw [same, record])
  have u_wx : u.wx = s.wx := congrArg PS.wx u_ps
  have u_wm : u.wm = s.wm := congrArg PS.wm u_ps
  simp only [u_wx, u_wm] at sp bus dt dpr y x b a
  have countPs := count_cons (before := []) (later := []) rfl (nn.getLsbD 7) .w16 s.ps.toWord
  have countPg : pullCount (if nn.getLsbD 7 then [.w16] else []) =
      (itemBytes [maskItem (nn.getLsbD 6) .w8 (ofByte s.pg), maskItem (nn.getLsbD 7) .w16 s.ps.toWord].flatten).length := by
    rw [b6]; exact countPs
  have countDt := count_cons countPg (nn.getLsbD 5) .w8 (ofByte s.dt)
  have countDpr := count_cons countDt (nn.getLsbD 4) .w16 s.dpr
  have countY := count_cons countDpr (nn.getLsbD 3) s.wx s.y
  have countX := count_cons countY (nn.getLsbD 2) s.wx s.x
  have countB := count_cons countX (nn.getLsbD 1) s.wm s.b
  have countA := count_cons countB (nn.getLsbD 0) s.wm s.a
  have u_dt : u.dt = s.dt := mask_cases dt
    (fun bit value => BitVec.eq_of_toNat_eq (by
      rw [value, pulled _ rfl bit countPg, lowNat_of_lt (by rw [ofByte_toNat]; exact s.dt.isLt), ofByte_toNat]))
    (fun same => by rw [same, record])
  have u_dpr : u.dpr = s.dpr := mask_cases dpr
    (fun bit value => BitVec.eq_of_toNat_eq (by rw [value, pulled _ rfl bit countDt, lowNat_of_lt s.dpr.isLt]))
    (fun same => by rw [same, record])
  have u_y : u.y = s.y := mask_cases y
    (fun bit low => by rw [pulled _ rfl bit countDpr, record] at low; exact low.eq_old rfl)
    (fun same => by rw [same, record])
  have u_x : u.x = s.x := mask_cases x
    (fun bit low => by rw [pulled _ rfl bit countY, record] at low; exact low.eq_old rfl)
    (fun same => by rw [same, record])
  have u_b : u.b = s.b := mask_cases b
    (fun bit low => by rw [pulled _ rfl bit countX, record] at low; exact low.eq_old rfl)
    (fun same => by rw [same, record])
  have u_a : u.a = s.a := mask_cases a
    (fun bit low => by rw [pulled (l := []) _ rfl bit countB, record] at low; exact low.eq_old rfl)
    (fun same => by rw [same, record])
  have items_eq : pshItems nn s = _ := foldl_append_eq (maskItem (nn.getLsbD 0) s.wm s.a) [_, _, _, _, _, _, _]
  rw [List.flatten_cons, ← items_eq] at countA
  have restored := pushes.afterPulls (by rw [record]) ram countA
  have u_bus : u.bus = s.bus := by rw [bus, restored, record]
  have u_sp : u.sp = s.sp := by rw [sp, ← State.afterPulls_sp, restored]
  refine ⟨_, u, exec_psh_eq nn s, next, ?_⟩
  rw [u_ps, u_dt, u_dpr, u_y, u_x, u_b, u_a, u_bus, u_sp] at frame
  rw [frame]
  generalize (s.pushAll (pshItems nn s)).mem = mem at record ⊢
  rw [record]

end Sys2Proof.Machine
end

section
/-! Jumps, calls, branches on bits and returns (48_branch_return.md), BRK and the interrupts (49_interrupt_special_other.md,
60_exceptions.md): where control goes, which request is chosen, and what a boundary does. -/

namespace Sys2Proof.Machine

/-! ## Jumps and calls -/

/-- Control goes to a target: the pointer's bytes are read, and nothing else changes. -/
theorem State.goTo_record (s : State) (target : Target) : s.goTo target =
    { s with pg := (s.target target).1, pc := (s.target target).2, jumped := true, bus := (s.afterTarget target).bus } := by
  rw [State.goTo, s.afterTarget_eq]; rfl

theorem State.goTo_next (s : State) (target : Target) : (s.goTo target).next = mkAddr (s.target target).1 (s.target target).2 :=
  rfl

/-- A pointer in the bank of the next instruction (R140, R141). -/
theorem addrOfNat_mkAddr (bank : Byte) (offset : Word) :
    addrOfNat (bank.toNat * 65536 + offset.toNat) = mkAddr bank offset := by
  rw [← mkAddr_toNat, addrOfNat_toNat]

/-- A pointer in that bank with the index X, which may carry into the bank (R142). -/
theorem State.addrOfNat_indexed (s : State) (mmll : Word) :
    addrOfNat (s.pg.toNat * 65536 + mmll.toNat + s.xNat) = mkAddr s.pg mmll + wide s.indexX := by
  apply BitVec.eq_of_toNat_eq
  rw [add_indexX_toNat, mkAddr_toNat, addrOfNat, BitVec.toNat_ofNat]

/-- Settles O49: the target of each form in numbers. -/
theorem jumpInstructions : Obligations.JumpInstructions := by
  intro target s
  refine ⟨s.goTo target, rfl, s.goTo_record target, ?bytes, ?next⟩
  case bytes => exact SameBytes.of_mem (by rw [s.goTo_record]) (by rw [s.goTo_record])
  case next =>
    rw [s.goTo_next, mkAddr_toNat]
    cases target with
    | abs mmll => rfl
    | absL hhmmll => rw [← mkAddr_toNat]; exact congrArg BitVec.toNat (mkAddr_bankOf_offsetOf hhmmll)
    | ind mmll =>
      have word := congrArg (fun a => (s.read16 a).toNat) (addrOfNat_mkAddr s.pg mmll)
      exact congrArg (s.pg.toNat * 65536 + ·) word.symm
    | indL mmll =>
      have long := congrArg (fun a => (s.read24 a).toNat) (addrOfNat_mkAddr s.pg mmll)
      rw [← mkAddr_toNat]
      exact (congrArg BitVec.toNat (mkAddr_bankOf_offsetOf _)).trans long.symm
    | indX mmll =>
      have word := congrArg (fun a => (s.read16 a).toNat) (s.addrOfNat_indexed mmll)
      exact congrArg (s.pg.toNat * 65536 + ·) word.symm

theorem itemBytes_return (pg : Byte) (pc : Word) :
    itemBytes [(.w8, ofByte pg), (.w16, pc)] = pg :: pushBytes .w16 pc := by
  rw [itemBytes, pushBytes_ofByte, itemBytes, itemBytes, List.append_nil]; rfl

/-- JSR long pushes PG and then PC (R332). -/
theorem State.exec_jsr_absL (s : State) (hhmmll : Addr) : exec (.jsr (.absL hhmmll)) s =
    .next ((s.pushAll [(.w8, ofByte s.pg), (.w16, s.pc)]).jumpTo (bankOf hhmmll) (offsetOf hhmmll)) := by
  have next : exec (.jsr (.absL hhmmll)) s =
      .next (((s.push8 s.pg).push16 s.pc).jumpTo (bankOf hhmmll) (offsetOf hhmmll)) := rfl
  rw [next, push8_eq_pushW]
  rfl

theorem State.pushAll_jumpTo (s : State) (items : List (Width × Word)) (pg : Byte) (pc : Word) :
    (s.pushAll items).jumpTo pg pc = { s with
      sp := ((s.pushAll items).jumpTo pg pc).sp, mem := ((s.pushAll items).jumpTo pg pc).mem
      pg := ((s.pushAll items).jumpTo pg pc).pg, pc := ((s.pushAll items).jumpTo pg pc).pc, jumped := true
      bus := (s.pushAll items).bus } :=
  congrArg (fun u : State => u.jumpTo pg pc) (s.pushAll_eq items)

/-- Settles O50: the return address is pushed and then control goes to the target. -/
theorem callInstructions : Obligations.CallInstructions := by
  intro mmll hhmmll s hs
  have pushes := s.push16_pushes s.pc hs
  have indirect : exec (.jsr (.indX mmll)) s = .next ((s.push16 s.pc).goTo (.indX mmll)) := rfl
  refine ⟨⟨_, rfl, pushes.of_mem rfl rfl rfl rfl rfl rfl (s.push16_plat s.pc), ?abs⟩, ?absL, _, _, rfl, indirect,
    pushes.of_mem rfl rfl rfl rfl rfl rfl (s.push16_plat s.pc), ?indX, ?pointer⟩
  case abs => exact congrArg (fun u : State => u.jumpTo s.pg mmll) (s.pushW_eq .w16 s.pc)
  case absL =>
    have pushes := s.pushAll_pushes [(.w8, ofByte s.pg), (.w16, s.pc)] hs
    rw [itemBytes_return] at pushes
    exact ⟨_, s.exec_jsr_absL hhmmll, pushes.of_mem rfl rfl rfl rfl rfl rfl (by rw [State.pushAll_eq]),
      State.pushAll_jumpTo s _ _ _, mkAddr_bankOf_offsetOf hhmmll⟩
  case indX =>
    have record := s.push16_record s.pc
    rw [s.addrOfNat_indexed, State.goTo_record]
    generalize s.push16 s.pc = u at record ⊢
    rw [record]; rfl
  case pointer =>
    rw [State.wordAt, s.addrOfNat_indexed]; rfl

/-! ## Branches on bits -/

/-- An instruction that reads a memory operand and branches under a condition on it. -/
theorem exec_branchMem_effect {i : Instr} {s : State} {md : Mode} {taken : Bool} {rr : Byte} {P : Prop} [Decidable P]
    (h : exec i s = .next ((s.afterMem s.wm md).branchIf taken rr)) (hP : taken = true ↔ P) :
    ∃ t, exec i s = .next t ∧ (if P then BranchesBy { s with bus := (s.afterMem s.wm md).bus } t rr.toInt
      else t = { s with bus := (s.afterMem s.wm md).bus }) := by
  rw [← s.afterMem_eq]
  exact ⟨_, h, State.branchIf_effect _ hP rr⟩

/-- Settles O52: the conditions on words are those on their numbers. -/
theorem bitTestBranches : Obligations.BitTestBranches := by
  intro md imm rr s
  have operand : (s.memOperand s.wm md).toNat = s.operandNat s.wm (.mem md) := rfl
  refine ⟨_, _, rfl, rfl, exec_branchMem_effect (i := .bbc md imm rr) rfl ?_,
    exec_branchMem_effect (i := .bbs md imm rr) rfl ?_⟩
  · rw [decide_eq_true_iff, ← BitVec.toNat_inj, BitVec.toNat_and, operand, immValue_toNat]; rfl
  · rw [decide_eq_true_iff, ← BitVec.toNat_inj, BitVec.toNat_and, operand, immValue_toNat]

/-! ## Returns -/

/-- Settles O53: PC, and PG, and PS come from the stack, in the order of the pulls. -/
theorem returnInstructions : Obligations.ReturnInstructions := by
  refine ⟨rfl, rfl, rfl, fun s => ⟨?rts, ?rtl, ?rti⟩⟩
  case rts =>
    have next : exec .rts s = .next (s.drop16.jumpTo s.pg s.top16) := rfl
    rw [s.drop16_record] at next
    exact ⟨_, next, rfl, SameBytes.of_mem rfl rfl, s.top16_toNat⟩
  case rtl =>
    have pulls : s.drop16.drop8 = s.afterPulls [.w16, .w8] := rfl
    have bank : s.drop16.top8.toNat = s.pulledNat [.w16] .w8 := s.drop16.top8_toNat
    have next : exec .rtl s = .next (s.drop16.drop8.jumpTo s.drop16.top8 s.top16) := rfl
    rw [pulls, State.afterPulls_eq] at next
    exact ⟨_, next, rfl, SameBytes.of_mem rfl rfl, s.top16_toNat, bank⟩
  case rti =>
    obtain ⟨record, pc, pg⟩ := s.leave_effect
    have ps : s.leave.ps.toWord.toNat = s.pulledNat [] .w16 % 2048 := by
      rw [record, PS.ofWord_toWord_toNat, s.top16_toNat]
    exact ⟨s.leave, rfl, record, SameBytes.of_mem (by rw [record]) (by rw [record]), ps, pc, pg⟩

/-! ## Exceptions -/

/-- Settles O55: BRK is an entry without a level, from the address of the next instruction. -/
theorem breakInstruction : Obligations.BreakInstruction := by
  intro nn s hs
  obtain ⟨t, u, rfl, rfl, pushes, pc, record⟩ := State.enter_effect_of_bus hs s.bus vectorBrk
  exact ⟨rfl, _, _, rfl, rfl, pushes, pc, record⟩

theorem frameBytes_length (ret : Addr) (ps : PS) : (frameBytes ret ps).length = 5 := by
  simp [frameBytes, pushBytes]

theorem lowNat_word (v : Word) : lowNat .w16 v = v.toNat := lowNat_of_lt v.isLt

theorem lowNat_ofByte (b : Byte) : lowNat .w8 (ofByte b) = b.toNat := by
  rw [lowNat_of_lt (by rw [ofByte_toNat]; exact b.isLt), ofByte_toNat]

/-- Settles O59: RTI finds PS, PC and PG where the entry put them. -/
theorem returnUndoesEntry : Obligations.ReturnUndoesEntry := by
  intro s ret vec level hs ram
  obtain ⟨pushes, -, record⟩ := s.enter_effect ret vec level hs
  have plat : (s.enter ret vec level).plat = s.plat := by rw [record]
  generalize s.enter ret vec level = t at *
  rw [← frameBytes_length ret s.ps] at ram
  have pulled : ∀ {pre post : List Byte} {before : List Width} (w : Width) (v : Word),
      frameBytes ret s.ps = pre ++ pushBytes w v ++ post → pullCount before = post.length →
      t.pulledNat before w = lowNat w v := by
    intro pre post before w v split count
    have short := frameBytes_length ret s.ps
    rw [split] at pushes ram short
    exact pushes.pulledNat plat (by omega) ram count
  have restored := pushes.afterPulls plat ram (widths := [.w16, .w16, .w8]) (frameBytes_length ret s.ps).symm
  obtain ⟨left, pc_eq, pg_eq⟩ := t.leave_effect
  have ps : PS.ofWord t.top16 = s.ps := by
    have word : t.top16.toNat = s.ps.toWord.toNat := by
      rw [t.top16_toNat, pulled (pre := bankOf ret :: pushBytes .w16 (offsetOf ret)) (post := []) .w16 s.ps.toWord
        (by rw [List.append_nil]; rfl) rfl, lowNat_word]
    rw [BitVec.eq_of_toNat_eq word, PS.ofWord_toWord]
  have pc : t.leave.pc = offsetOf ret := by
    apply BitVec.eq_of_toNat_eq
    rw [pc_eq, pulled (pre := [bankOf ret]) (post := pushBytes .w16 s.ps.toWord) .w16 (offsetOf ret) rfl
      (by rw [pushBytes_length]; rfl), lowNat_word]
  have pg : t.leave.pg = bankOf ret := by
    apply BitVec.eq_of_toNat_eq
    rw [pg_eq, pulled (pre := []) (post := pushBytes .w16 (offsetOf ret) ++ pushBytes .w16 s.ps.toWord) .w8
      (ofByte (bankOf ret)) (by rw [pushBytes_ofByte]; rfl) (by simp [pushBytes_length, pullCount, Width.bits]), lowNat_ofByte]
  refine ⟨t, t.leave, rfl, rfl, ?record, ?next⟩
  case record =>
    have sp : t.sp + 5#16 = s.sp := by rw [pushes.1, frameBytes_length]; exact BitVec.sub_add_cancel _ _
    have bus : (t.afterPulls [.w16, .w16, .w8]).bus = t.bus := by rw [restored]
    rw [left, ps, pc, pg, sp, bus]
    generalize t.bus = bus
    rw [record]
  case next => rw [State.next, pc, pg, mkAddr_bankOf_offsetOf]

end Sys2Proof.Machine
end

section
/-! A boundary and a step (60_exceptions.md, 70_reset_and_hazards.md): which request is chosen, what a boundary with a request
or a reset does, and how an instruction is fetched and run. -/

namespace Sys2Proof.Machine

/-! ## The choice of a request -/

/-- The order of requests, as numbers (R382). -/
theorem goesBefore_iff (p : Platform) (r q : Request) : goesBefore p r q = true ↔
    priorityOf p q < priorityOf p r ∨ priorityOf p q = priorityOf p r ∧ r.source ≤ q.source := by
  simp [goesBefore]

theorem goesBefore_trans {p : Platform} {r q o : Request} (h : goesBefore p r q = true) (g : goesBefore p q o = true) :
    goesBefore p r o = true := by
  rw [goesBefore_iff] at *
  omega

theorem goesBefore_total (p : Platform) (r q : Request) : goesBefore p r q = true ∨ goesBefore p q r = true := by
  rw [goesBefore_iff, goesBefore_iff]
  omega

theorem priorityOf_eq {p : Platform} {r : Request} {src : Source} (h : p.sources[r.source]? = some src) :
    priorityOf p r = if src.maskable then (r.level.getD 0#3).toNat else 8 := by
  simp only [priorityOf, h]

/-- The choice is acceptable and goes before every acceptable request; there is none exactly where none is acceptable. -/
theorem choose_spec (p : Platform) (ps : PS) (pending : List Request) :
    (choose p ps pending = none → ∀ q ∈ pending, acceptable p ps q = false) ∧
    ∀ r, choose p ps pending = some r → r ∈ pending ∧ acceptable p ps r = true ∧
      ∀ q ∈ pending, acceptable p ps q = true → goesBefore p r q = true := by
  induction pending with
  | nil => exact ⟨fun _ q h => absurd h List.not_mem_nil, fun r h => by cases h⟩
  | cons c rest ih =>
    obtain ⟨ih_none, ih_some⟩ := ih
    have refl_c : goesBefore p c c = true := by rw [goesBefore_iff]; omega
    rw [choose]
    cases chosen : choose p ps rest with
    | none =>
      have none_rest := ih_none chosen
      have refused {P : Prop} {q : Request} (hq : q ∈ rest) (ok : acceptable p ps q = true) : P :=
        absurd ok (by rw [none_rest q hq]; exact Bool.false_ne_true)
      by_cases hc : acceptable p ps c = true
      · simp only [hc, if_true]
        exact ⟨fun h => absurd h (Option.some_ne_none c), fun r h => by cases h; simpa [hc, refl_c] using fun q hq ok => refused hq ok⟩
      · simpa [hc] using none_rest
    | some q =>
      obtain ⟨mem, ok, before⟩ := ih_some q chosen
      by_cases first : acceptable p ps c = true ∧ goesBefore p c q = true
      · obtain ⟨hc, c_first⟩ := first
        simp only [hc, c_first, Bool.and_self, if_true]
        refine ⟨fun h => absurd h (Option.some_ne_none _), fun r h => ?_⟩
        cases h
        refine ⟨List.mem_cons_self, hc, fun o ho ok => ?_⟩
        obtain rfl | ho := List.mem_cons.mp ho
        · exact refl_c
        · exact goesBefore_trans c_first (before o ho ok)
      · rw [← Bool.and_eq_true] at first
        simp only [first]
        refine ⟨fun h => absurd h (Option.some_ne_none _), fun r h => ?_⟩
        cases h
        refine ⟨List.mem_cons_of_mem _ mem, ok, fun o ho hok => ?_⟩
        obtain rfl | ho := List.mem_cons.mp ho
        · exact (goesBefore_total p q o).resolve_right fun o_first => first (Bool.and_eq_true_iff.mpr ⟨hok, o_first⟩)
        · exact before o ho hok

/-- Settles O57: the order of `goesBefore` is non-maskable first, then the level, then the place of the source. -/
theorem interruptChoice : Obligations.InterruptChoice := by
  intro p ps pending
  obtain ⟨chosen_none, chosen_some⟩ := choose_spec p ps pending
  refine ⟨fun r src hsrc => ?_, ⟨chosen_none, fun h => ?_⟩, fun r hr => ?_⟩
  · simp only [acceptable, hsrc]
    cases src.maskable <;> cases r.level <;> simp
  · cases chosen : choose p ps pending with
    | none => rfl
    | some r =>
      obtain ⟨mem, ok, -⟩ := chosen_some r chosen
      rw [h r mem] at ok
      cases ok
  · obtain ⟨mem, ok, before⟩ := chosen_some r hr
    refine ⟨mem, ok, fun q hq hok sr sq hsr hsq => ?_⟩
    have order := (goesBefore_iff p r q).mp (before q hq hok)
    have r_level := (r.level.getD 0#3).isLt
    have q_level := (q.level.getD 0#3).isLt
    rw [priorityOf_eq hsr, priorityOf_eq hsq] at order
    refine ⟨fun nonmaskable => ?_, fun maskable => ?_, fun same_kind same => ?_⟩
    · cases masked : sr.maskable with
      | false => rfl
      | true => simp only [masked, nonmaskable, if_true, Bool.false_eq_true, if_false] at order; omega
    · cases masked : sq.maskable <;> simp [masked, maskable] at order <;> omega
    · obtain nonmaskable | level := same
      · simp only [← same_kind, nonmaskable, Bool.false_eq_true, if_false] at order
        omega
      · rw [← same_kind, level] at order
        omega

/-! ## What a boundary does -/

/-- A step outside the reset phase follows what the boundary leads to. -/
theorem step_of_event {s : State} {e : Event} (running : s.inReset = false) (he : s.event = e) :
    step s = ifAllowed (s.beginStep.follow e) := by
  rw [step, running, he]; rfl

theorem State.event_of_no_reset {s : State} (h : s.arriving.reset = none) : s.event =
    (choose s.plat s.ps s.arriving.pending).elim (eventOfRun s) .accept := by
  simp only [State.event, h]
  cases choose s.plat s.ps s.arriving.pending <;> rfl

theorem addrOfNat_vector (vec : Word) : addrOfNat vec.toNat = mkAddr 0x00#8 vec := by
  rw [← addrOfNat_mkAddr, BitVec.toNat_ofNat, Nat.zero_mod, Nat.zero_mul, Nat.zero_add]

/-- Settles O58: the entry of R372 from the state at the start of the step. -/
theorem interruptEntry : Obligations.InterruptEntry := by
  intro s r src hs running no_reset chosen hsrc
  have event : s.event = .accept r := by rw [State.event_of_no_reset no_reset, chosen]; rfl
  have vector : vectorOf s.beginStep.plat r = src.vector := by rw [vectorOf, State.beginStep_plat, hsrc]
  obtain ⟨pushes, pc, record⟩ := s.beginStep.enter_effect s.next src.vector r.level hs
  have next := step_of_event running event
  rw [State.follow, State.accept, vector] at next
  refine ⟨_, _, rfl, next, pushes.of_mem rfl rfl rfl rfl rfl rfl (by rw [record]; rfl), pc, ?_⟩
  rw [addrOfNat_vector]
  exact congrArg (fun t : State => { t with run := .running, stale := [] }) record

theorem anyRequest_iff (p : Platform) (pending : List Request) :
    anyRequest p pending = true ↔ ∃ r ∈ pending, r.source < p.sources.length := by
  simp [anyRequest]

section
variable {s t : State} {i : Instr} {len : Nat} {e : DecodeError}

theorem State.runNext_of_stale (hf : s.fetch = .ok (i, len)) (stale : s.runsIntoStore len = true) :
    s.runNext = .refused .storeIntoPrefetch := by
  simp only [State.runNext, hf, stale, if_true]

theorem State.runNext_of_next (hf : s.fetch = .ok (i, len)) (fresh : s.runsIntoStore len = false)
    (next : exec i (s.advance len) = .next t) : s.runNext = .next ((s.advance len).settle t) := by
  simp only [State.runNext, hf, fresh, next, Bool.false_eq_true, if_false]

theorem State.runNext_of_refused {r : Refusal} (hf : s.fetch = .ok (i, len)) (fresh : s.runsIntoStore len = false)
    (refused : exec i (s.advance len) = .refused r) : s.runNext = .refused r := by
  simp only [State.runNext, hf, fresh, refused, Bool.false_eq_true, if_false]

theorem State.runNext_of_error (hf : s.fetch = .error e) : s.runNext =
    if s.runsIntoStore (errorBytes e).length then .refused .storeIntoPrefetch
    else .refused (.illegalOpcode s.next (errorBytes e)) := by
  simp only [State.runNext, hf]

end

/-- Settles O60: what happens without an acceptable request while the machine waits or is stopped is a wake-up or nothing. -/
theorem waitingStaysUnlessWoken : Obligations.WaitingStaysUnlessWoken := by
  intro s running stands no_reset none_chosen
  have woken : (s.plat.maskedRequestWakes = true ∧ ∃ r ∈ s.arriving.pending, r.source < s.plat.sources.length) ↔
      (s.plat.maskedRequestWakes && anyRequest s.plat s.arriving.pending) = true := by
    rw [Bool.and_eq_true, anyRequest_iff]
  have event : s.event =
      if s.plat.maskedRequestWakes && anyRequest s.plat s.arriving.pending then .wake else .idle := by
    rw [State.event_of_no_reset no_reset, none_chosen]
    simp only [Option.elim]
    cases run : s.run with
    | running => exact absurd run stands
    | waiting => simp only [eventOfRun, run]
    | stopped => simp only [eventOfRun, run]
  have next := step_of_event running event
  simp only [woken]
  split at next
  case isTrue => exact ⟨_, next, rfl, by simp [*]⟩
  case isFalse => exact ⟨_, next, rfl, by simp [*]⟩

/-! ## Reset -/

/-- Settles O1: the values are those of `State.reset`, and a step of the reset phase loads the vector. -/
theorem resetValues : Obligations.ResetValues := by
  refine ⟨rfl, rfl, rfl, rfl, rfl, rfl, rfl, rfl, rfl, rfl, rfl, ⟨_, rfl⟩, fun s inReset => ?_⟩
  exact ⟨s.allowed.loadResetVector, by rw [step, inReset]; rfl, rfl, rfl⟩

/-- RAM that a reset fills: a byte that no cell names, or that is not RAM, stays (R410, log 12). -/
theorem read_fillRam_of_not_named (p : Platform) {a : Addr} {cells mem : List Host.Cell} (hm : Memory.wf mem = true)
    (h : regionKind p a ≠ .ram ∨ ∀ c ∈ cells, addrOfNat c.1 ≠ a) :
    Memory.read (fillRam p mem cells) a.toNat = Memory.read mem a.toNat := by
  induction cells generalizing mem with
  | nil => rfl
  | cons c rest ih =>
    obtain ⟨n, v⟩ := c
    have stays : ¬ (BitVec.ofNat 24 n = a ∧ regionKind p a = .ram) := fun ⟨named, ram⟩ =>
      h.elim (· ram) fun other => other (n, v) List.mem_cons_self named
    rw [fillRam, ih (storeByte_wf p _ v hm) (h.imp_right fun other c hc => other c (List.mem_cons_of_mem _ hc)),
      read_storeByte p _ a v hm, if_neg stays]

theorem fillRam_append (p : Platform) (mem l k : List Host.Cell) : fillRam p mem (l ++ k) = fillRam p (fillRam p mem l) k := by
  induction l generalizing mem with
  | nil => rfl
  | cons c rest ih => exact ih _

/-- A byte of RAM is what the last cell that names it gives. -/
theorem read_fillRam_of_last (p : Platform) {n : Nat} {v : Byte} {earlier later mem : List Host.Cell}
    (hm : Memory.wf mem = true) (ram : regionKind p (addrOfNat n) = .ram)
    (last : ∀ c ∈ later, addrOfNat c.1 ≠ addrOfNat n) :
    Memory.read (fillRam p mem (earlier ++ (n, v) :: later)) (addrOfNat n).toNat = v := by
  have hm' := fillRam_wf p earlier hm
  rw [fillRam_append, fillRam, read_fillRam_of_not_named p (storeByte_wf p _ v hm') (.inr last),
    read_storeByte p _ (addrOfNat n) v hm', if_pos ⟨rfl, ram⟩]

/-- Settles O2: the reset event at the start of the step; only RAM that it names differs. -/
theorem resetArrives : Obligations.ResetArrives := by
  intro s args pending rest hs running arrives
  have event : s.event = .reset args := by rw [State.event, State.arriving, arrives]; rfl
  have used : s.beginStep.inputs = rest := by rw [State.beginStep_inputs, arrives]; rfl
  refine ⟨s.beginStep.resetEvent args, _, rfl, step_of_event running event, ?_, rfl, fun earlier later n v split last ram => ?_,
    fun a ha kept => ?_⟩
  · rw [← used, running]; rfl
  · rw [State.read8_of_memory (s := s.beginStep.resetEvent args) (hasMemory_of_ram ram)]
    have read := read_fillRam_of_last s.plat (v := v) (earlier := earlier) hs ram last
    rw [← split] at read
    exact read
  · rw [State.read8_of_memory ha, State.read8_of_memory (s := s.beginStep.resetEvent args) ha]
    exact read_fillRam_of_not_named s.plat hs kept

/-! ## The next instruction -/

/-- In a state that executes, a step runs the next instruction (R381, R92). -/
theorem State.Executes.step_eq {s : State} (h : s.Executes) : step s = ifAllowed s.beginStep.runNext := by
  obtain ⟨inReset, run, no_reset, none_chosen⟩ := h
  refine step_of_event (e := .execute) inReset ?_
  rw [State.event_of_no_reset no_reset, none_chosen]
  simp only [Option.elim, eventOfRun, run]

theorem State.advance_next (s : State) (len : Nat) : (s.advance len).next = s.next + BitVec.ofNat 24 len := by
  rw [State.advance, State.setNext, State.next]
  exact mkAddr_bankOf_offsetOf _

theorem State.advance_record (s : State) (len : Nat) : s.advance len =
    { s with pg := (s.advance len).pg, pc := (s.advance len).pc, bus := (s.afterBytes s.next len).bus } :=
  congrArg (fun t : State => t.setNext (s.next + BitVec.ofNat 24 len)) (s.afterBytes_eq s.next len)

/-- Settles O6: the branches of `State.runNext` for a code that decodes. -/
theorem stepRunsDecodedInstruction : Obligations.StepRunsDecodedInstruction := by
  intro s i rest executes decodes
  have fetch : s.beginStep.fetch = .ok (i, 6 - rest.length) := by
    simp only [State.fetch, State.ctx, State.beginStep_plat, State.beginStep_ps] at decodes ⊢
    rw [decodes]
  refine ⟨_, s.beginStep.advance (6 - rest.length), rfl, s.beginStep.advance_record _, ?next, ?written, fun stale => ?stale,
    fun fresh => ⟨fun t ht => ?ran, fun r hr => ?refused⟩⟩
  case next =>
    rw [State.advance_next, BitVec.toNat_add, BitVec.toNat_ofNat, Nat.add_mod_mod]; rfl
  case written =>
    rw [State.advance_record]
    exact State.afterBytes_written _ _ _
  case stale => rw [executes.step_eq, State.runNext_of_stale fetch stale]; rfl
  case ran => rw [executes.step_eq, State.runNext_of_next fetch fresh ht]
  case refused => rw [executes.step_eq, State.runNext_of_refused fetch fresh hr]; rfl

/-! ## The prefetch window -/

theorem mem_addrsFrom {a b : Addr} {count : Nat} :
    a ∈ addrsFrom b count ↔ ∃ k, k < count ∧ a = b + BitVec.ofNat 24 k := by
  induction count generalizing b with
  | zero => simp [addrsFrom]
  | succ n ih =>
    have shift (k : Nat) : b + 1#24 + BitVec.ofNat 24 k = b + BitVec.ofNat 24 (k + 1) := by
      rw [BitVec.add_assoc, Nat.add_comm k 1, BitVec.ofNat_add]
    rw [addrsFrom, List.mem_cons, ih]
    constructor
    · rintro (rfl | ⟨k, hk, rfl⟩)
      · exact ⟨0, Nat.succ_pos n, (BitVec.add_zero a).symm⟩
      · exact ⟨k + 1, Nat.succ_lt_succ hk, shift k⟩
    · rintro ⟨_ | k, hk, rfl⟩
      · exact .inl (BitVec.add_zero b)
      · exact .inr ⟨k, Nat.lt_of_succ_lt_succ hk, (shift k).symm⟩

theorem mem_settle_stale {u t : State} {a : Addr} : a ∈ (u.settle t).stale ↔ t.jumped = false ∧
    (a ∈ u.stale ∨ a ∈ addrsFrom u.next u.plat.queueReach ∧ byteChanged u t a = true) := by
  rw [State.settle]
  cases t.jumped <;> simp

/-- Settles O7: the note is a filter of the addresses of the window. -/
theorem prefetchedBytesChanged : Obligations.PrefetchedBytesChanged := by
  intro u t len a
  refine ⟨?runs, rfl, ?noted, fun ram plat => ?ram, fun id words device => ?device, fun refuses elsewhere => ?elsewhere⟩
  case runs =>
    simp only [State.runsIntoStore, List.any_eq_true, mem_addrsFrom, List.contains_iff_mem]
    exact ⟨fun ⟨_, ⟨k, hk, rfl⟩, stale⟩ => ⟨k, hk, stale⟩, fun ⟨k, hk, stale⟩ => ⟨_, ⟨k, hk, rfl⟩, stale⟩⟩
  case noted => rw [mem_settle_stale, mem_addrsFrom, and_comm (a := ∃ k, _)]
  case ram =>
    have ram' : regionKind t.plat a = .ram := by rw [plat, ram]
    simp only [byteChanged, ram, bne_iff_ne]
    rw [State.read8_of_memory (hasMemory_of_ram ram), State.read8_of_memory (hasMemory_of_ram ram')]
  case device => simp only [byteChanged, device, List.contains_iff_mem]
  case elsewhere =>
    obtain rom | unmapped := elsewhere
    · simp only [byteChanged, rom]
    · simp only [byteChanged, unmapped]

end Sys2Proof.Machine
end

section
/-! Codes that no table lists (30_encoding.md section 6): the six bytes at PG:PC always hold the operands of a listed code, so
that decoding them fails exactly for the others. -/

namespace Sys2Proof

/-- How many bytes after the code an instruction of the template needs at most. -/
def Template.need (t : Template) : Nat :=
  match t with
  | .plain _ => 0
  | .immM _ => 2
  | .immX _ => 2
  | .byte _ => 1
  | .word _ => 2
  | .long _ => 3
  | .byteImm _ => 3
  | .wordImm _ => 4
  | .byteImmRel _ => 4
  | .wordImmRel _ => 5
  | .twoBytes _ => 2

theorem Template.need_le (t : Template) : t.need ≤ 5 := by cases t <;> simp [Template.need]

/-- Two bytes hold an immediate of either length; it takes at most both. -/
theorem takeImm_isSome (flag : Bool) {bytes : List Byte} (h : 2 ≤ bytes.length) :
    ∃ imm rest, takeImm flag bytes = some (imm, rest) ∧ bytes.length ≤ rest.length + 2 := by
  match bytes, h with
  | b :: b' :: rest, _ =>
    cases flag
    · exact ⟨_, _, rfl, Nat.le_refl _⟩
    · exact ⟨_, _, rfl, Nat.le_succ _⟩

/-- Enough bytes fill every template. -/
theorem Template.fill_isSome (c : DecodeCtx) (t : Template) {bytes : List Byte} (h : t.need ≤ bytes.length) :
    (t.fill c bytes).isSome = true := by
  cases t with
  | plain i => simp only [Template.fill, Option.isSome_some]
  | immM k =>
    obtain ⟨imm, rest, taken, -⟩ := takeImm_isSome c.m h
    simp only [Template.fill, taken, Option.map_some, Option.isSome_some]
  | immX k =>
    obtain ⟨imm, rest, taken, -⟩ := takeImm_isSome c.x h
    simp only [Template.fill, taken, Option.map_some, Option.isSome_some]
  | byte k => match bytes, h with | _ :: _, _ => rfl
  | word k => match bytes, h with | _ :: _ :: _, _ => rfl
  | long k => match bytes, h with | _ :: _ :: _ :: _, _ => rfl
  | twoBytes k => match bytes, h with | _ :: _ :: _, _ => rfl
  | byteImm k =>
    match bytes, h with
    | _ :: bytes, h =>
      obtain ⟨imm, rest, taken, -⟩ := takeImm_isSome c.m (Nat.le_of_succ_le_succ h)
      simp only [Template.fill, taken, Option.map_some, Option.isSome_some]
  | wordImm k =>
    match bytes, h with
    | _ :: _ :: bytes, h =>
      obtain ⟨imm, rest, taken, -⟩ := takeImm_isSome c.m (Nat.le_of_succ_le_succ (Nat.le_of_succ_le_succ h))
      simp only [Template.fill, taken, Option.map_some, Option.isSome_some]
  | byteImmRel k =>
    match bytes, h with
    | _ :: bytes, h =>
      have long : 3 ≤ bytes.length := Nat.le_of_succ_le_succ h
      obtain ⟨imm, rest, taken, left⟩ := takeImm_isSome c.m (Nat.le_of_succ_le long)
      match rest, left with
      | [], left => simp at left; omega
      | _ :: _, _ => simp only [Template.fill, taken, Option.isSome_some]
  | wordImmRel k =>
    match bytes, h with
    | _ :: _ :: bytes, h =>
      have long : 3 ≤ bytes.length := Nat.le_of_succ_le_succ (Nat.le_of_succ_le_succ h)
      obtain ⟨imm, rest, taken, left⟩ := takeImm_isSome c.m (Nat.le_of_succ_le long)
      match rest, left with
      | [], left => simp at left; omega
      | _ :: _, _ => simp only [Template.fill, taken, Option.isSome_some]

/-! ## The tables -/

/-- A table gives a template exactly for a defined code, and one that leaves room for a lead byte. -/
def fitsTable (found : Option Template) (defined : Bool) : Bool :=
  (found.isSome == defined) && found.all fun t => decide (t.need ≤ 4)

/-- A fact about each row and column of a table is one about each byte. -/
theorem forall_code {p : Nat → Prop} (h : ∀ (row : Fin 8) (col : Fin 32), p (32 * row + col)) (b : Byte) : p b.toNat := by
  have := b.isLt
  have split := h ⟨b.toNat / 32, by omega⟩ ⟨b.toNat % 32, by omega⟩
  rwa [show 32 * (b.toNat / 32) + b.toNat % 32 = b.toNat by omega] at split

/-- What table 1 lists: all but 02h and the lead bytes (R104). -/
def IsListed1 (n : Nat) : Prop := n = 0x42 ∨ n = 0x89 ∨ (table1 n).isSome = (n != 0x02)

/-- What tables 2 and 3 list (R105, R106). -/
def AreListed23 (series7750 : Bool) (n : Nat) : Prop :=
  fitsTable (table2 series7750 n) (Machine.definedCode series7750 0x42 n) = true ∧
    fitsTable (table3 series7750 n) (Machine.definedCode series7750 0x89 n) = true

theorem isListed1 : ∀ b : Byte, IsListed1 b.toNat := by
  refine forall_code ?_
  unfold IsListed1
  decide

theorem areListed23 (series7750 : Bool) : ∀ b : Byte, AreListed23 series7750 b.toNat := by
  refine forall_code ?_
  unfold AreListed23
  revert series7750
  decide

/-! ## Decoding -/

/-- Decoding succeeds, or finds that the code is undefined, as `defined` says. -/
def DecodesIf (defined : Bool) (code : List Byte) (result : Except DecodeError (Instr × List Byte)) : Prop :=
  (defined = true → ∃ r, result = .ok r) ∧ (defined = false → result = .error (.undefinedOpcode code))

theorem decodeWith_decodesIf (c : DecodeCtx) {found : Option Template} (code : List Byte) {bytes : List Byte}
    (enough : ∀ t, found = some t → t.need ≤ bytes.length) :
    DecodesIf found.isSome code (decodeWith c found code bytes) := by
  cases found with
  | none => exact ⟨fun h => absurd h Bool.false_ne_true, fun _ => rfl⟩
  | some t =>
    obtain ⟨r, filled⟩ := Option.isSome_iff_exists.mp (t.fill_isSome c (enough t rfl))
    exact ⟨fun _ => ⟨r, by simp only [decodeWith, filled]⟩, fun h => by cases h⟩

theorem decodeWith_of_fits (c : DecodeCtx) {found : Option Template} {defined : Bool} (code : List Byte) {bytes : List Byte}
    (fits : fitsTable found defined = true) (four : bytes.length = 4) :
    DecodesIf defined code (decodeWith c found code bytes) := by
  obtain ⟨listed, short⟩ := Bool.and_eq_true_iff.mp fits
  rw [← beq_iff_eq.mp listed]
  refine decodeWith_decodesIf c code fun t ht => ?_
  rw [ht] at short
  rw [four]
  exact of_decide_eq_true short

/-- Six bytes decode exactly where their first one or two are a code of the tables (R104 to R106, R109). -/
theorem decode_six (c : DecodeCtx) (b0 b1 : Byte) {rest : List Byte} (four : rest.length = 4) :
    DecodesIf (Machine.definedCode c.series7750 b0.toNat b1.toNat) (Machine.codeBytes b0 b1) (decode c (b0 :: b1 :: rest)) := by
  have tables := areListed23 c.series7750 b1
  by_cases second : b0 = 0x42#8
  · subst second
    exact decodeWith_of_fits c [_, b1] tables.1 four
  · by_cases third : b0 = 0x89#8
    · subst third
      exact decodeWith_of_fits c [_, b1] tables.2 four
    · have ne2 : b0.toNat ≠ 0x42 := fun e => second (BitVec.eq_of_toNat_eq e)
      have ne3 : b0.toNat ≠ 0x89 := fun e => third (BitVec.eq_of_toNat_eq e)
      have listed : (table1 b0.toNat).isSome = Machine.definedCode c.series7750 b0.toNat b1.toNat := by
        rw [((isListed1 b0).resolve_left ne2).resolve_left ne3, Machine.definedCode, if_neg ne2, if_neg ne3]
      rw [decode, if_neg second, if_neg third, Machine.codeBytes, if_neg (not_or.mpr ⟨second, third⟩), ← listed]
      refine decodeWith_decodesIf c [b0] fun t _ => ?_
      rw [List.length_cons, four]
      exact t.need_le

end Sys2Proof

namespace Sys2Proof.Machine

theorem State.bytesFrom_length (s : State) (a : Addr) (n : Nat) : (s.bytesFrom a n).length = n := by
  induction n generalizing s a with
  | zero => rfl
  | succ n ih => rw [State.bytesFrom, List.length_cons, ih]

/-- Settles O5: the window is six bytes, and `decode_six` says what it decodes to. -/
theorem undefinedCodesRefused : Obligations.UndefinedCodesRefused := by
  intro s b0 b1 rest executes window
  have four : rest.length = 4 := by
    have six := s.beginStep.bytesFrom_length s.beginStep.next 6
    rw [← State.window, window] at six
    simpa using six
  obtain ⟨defined, undefined⟩ := decode_six s.ctx b0 b1 four
  have failed (h : definedCode s.plat.series7750 b0.toNat b1.toNat = false) :
      s.beginStep.fetch = .error (.undefinedOpcode (codeBytes b0 b1)) := by
    have error := undefined h
    rw [← window] at error
    simp only [State.fetch, State.ctx, State.beginStep_plat, State.beginStep_ps] at error ⊢
    rw [error]
  refine ⟨⟨fun ⟨e, he⟩ => ?_, fun h => ⟨_, failed h⟩⟩, fun h => ?_⟩
  · by_contra listed
    obtain ⟨r, decoded⟩ := defined (Bool.eq_true_of_not_eq_false listed)
    rw [← window] at decoded
    simp only [State.fetch, State.ctx, State.beginStep_plat, State.beginStep_ps] at decoded he
    rw [decoded] at he
    cases he
  · rw [executes.step_eq, State.runNext_of_error (failed h)]
    exact apply_ite ifAllowed _ _ _

end Sys2Proof.Machine
end

section
/-! Block transfers (44_block_transfer.md): when they are refused, what their steps do to memory, upwards and downwards, and
the interruption after a step. -/

namespace Sys2Proof.Machine

/-! ## Refusals -/

theorem indexX_ne_iff (s : State) : s.indexX ≠ s.x ↔ s.ps.x = true ∧ 256 ≤ s.x.toNat := by
  rw [ne_eq, ← BitVec.toNat_inj, s.indexX_toNat, State.xNat]
  cases s.ps.x <;> simp

theorem indexY_ne_iff (s : State) : s.indexY ≠ s.y ↔ s.ps.x = true ∧ 256 ≤ s.y.toNat := by
  rw [ne_eq, ← BitVec.toNat_inj, s.indexY_toNat, State.yNat]
  cases s.ps.x <;> simp

theorem State.hidesIndex_iff (s : State) : s.hidesIndex = true ↔ s.ps.x = true ∧ (256 ≤ s.x.toNat ∨ 256 ≤ s.y.toNat) := by
  rw [State.hidesIndex, Bool.or_eq_true, decide_eq_true_iff, decide_eq_true_iff, indexX_ne_iff, indexY_ne_iff, and_or_left]

/-- With x = 0, or with index bytes in range, nothing is hidden (R245). -/
theorem State.hidesIndex_of_range {s : State} (hx : s.x.toNat = s.xNat) (hy : s.y.toNat = s.yNat) : s.hidesIndex = false := by
  have x_eq : s.indexX = s.x := BitVec.eq_of_toNat_eq (by rw [s.indexX_toNat, hx])
  have y_eq : s.indexY = s.y := BitVec.eq_of_toNat_eq (by rw [s.indexY_toNat, hy])
  rw [State.hidesIndex, x_eq, y_eq]
  simp

theorem State.blockCount_eq (s : State) : s.blockCount = lowNat s.wm s.a := s.accW_toNat .a s.wm

theorem State.staysBelow_iff (s : State) : s.staysBelow = true ↔
    s.xNat + lowNat s.wm s.a ≤ 2 ^ s.wx.bits ∧ s.yNat + lowNat s.wm s.a ≤ 2 ^ s.wx.bits := by
  simp only [State.staysBelow, Bool.and_eq_true, decide_eq_true_iff, s.indexX_toNat, s.indexY_toNat, s.blockCount_eq]

theorem State.staysAbove_iff (s : State) : s.staysAbove = true ↔
    lowNat s.wm s.a ≤ s.xNat + 1 ∧ lowNat s.wm s.a ≤ s.yNat + 1 := by
  simp only [State.staysAbove, Bool.and_eq_true, decide_eq_true_iff, s.indexX_toNat, s.indexY_toNat, s.blockCount_eq]

/-- What MVN and MVP answer (R245, R247), with the condition on the block and the end of the steps as they come. -/
def blockOutcome (hides stays : Bool) (t : State) : Host.Outcome State Fault Refusal :=
  if hides then .refused .blockIndexHighByte else if stays then .next t else .refused .blockCrossesBank

theorem exec_mvn (n1 n2 : Byte) (s : State) : exec (.mvn n1 n2) s =
    blockOutcome s.hidesIndex s.staysBelow ((moveUp n2 n1 s.blockCount s s.indexX s.indexY).state n1) := rfl

theorem exec_mvp (n1 n2 : Byte) (s : State) : exec (.mvp n1 n2) s =
    blockOutcome s.hidesIndex s.staysAbove ((moveDown n2 n1 s.blockCount s s.indexX s.indexY).state n1) := rfl

theorem blockOutcome_index (hides stays : Bool) (t : State) :
    blockOutcome hides stays t = .refused .blockIndexHighByte ↔ hides = true := by
  cases hides <;> cases stays <;> simp [blockOutcome]

theorem blockOutcome_bank (stays : Bool) (t : State) :
    blockOutcome false stays t = .refused .blockCrossesBank ↔ ¬ stays = true := by
  cases stays <;> simp [blockOutcome]

/-- Settles O29: the conditions of `exec_mvn` and `exec_mvp` in numbers. -/
theorem blockTransferRefusals : Obligations.BlockTransferRefusals := by
  intro n1 n2 s
  rw [exec_mvn, exec_mvp, blockOutcome_index, blockOutcome_index, s.hidesIndex_iff]
  refine ⟨Iff.rfl, Iff.rfl, fun hx hy => ?_⟩
  rw [State.hidesIndex_of_range hx hy, blockOutcome_bank, blockOutcome_bank, s.staysBelow_iff, s.staysAbove_iff]
  constructor <;> omega

/-! ## Blocks of bytes -/

/-- The bytes at `dst 0`, ... of `n` are copied from `src 0`, ... in words: nothing else in memory differs, and a byte copied is
the one at its source before, or the one that an earlier word has left there (R246). -/
structure BlockCopied (s t : State) (src dst : Nat → Addr) (n : Nat) : Prop where
  record : t = { s with mem := t.mem, bus := t.bus }
  memOk : t.MemOk
  bus : MemoryOnly s.plat → t.bus = s.bus
  outside : ∀ b, hasMemory s.plat b = true → (∀ k, k < n → b ≠ dst k) → t.read8 b = s.read8 b
  fresh : ∀ k, k < n → regionKind s.plat (dst k) = .ram → hasMemory s.plat (src k) = true →
    (∀ j, j < n → j / 2 < k / 2 → src k ≠ dst j) → t.read8 (dst k) = s.read8 (src k)
  overwritten : ∀ k, k < n → regionKind s.plat (dst k) = .ram → hasMemory s.plat (src k) = true →
    ∀ j, j < n → j / 2 < k / 2 → src k = dst j → t.read8 (dst k) = t.read8 (src k)

theorem BlockCopied.plat {s t : State} {src dst : Nat → Addr} {n : Nat} (h : BlockCopied s t src dst n) : t.plat = s.plat := by
  rw [h.record]

theorem BlockCopied.nothing {s : State} (hs : s.MemOk) (src dst : Nat → Addr) : BlockCopied s s src dst 0 where
  record := rfl
  memOk := hs
  bus _ := rfl
  outside _ _ _ := rfl
  fresh k hk := absurd hk k.not_lt_zero
  overwritten k hk := absurd hk k.not_lt_zero

/-- A step of a word and the steps after it. -/
theorem BlockCopied.append {s u t : State} {src dst : Nat → Addr} {n : Nat} (h : BlockCopied s u src dst 2)
    (g : BlockCopied u t (fun k => src (k + 2)) (fun k => dst (k + 2)) n)
    (distinct : ∀ j k, j < n + 2 → k < n + 2 → dst j = dst k → j = k) : BlockCopied s t src dst (n + 2) := by
  have first_stays : ∀ k, k < 2 → hasMemory s.plat (dst k) = true → t.read8 (dst k) = u.read8 (dst k) := by
    intro k hk memory
    refine g.outside _ (by rw [h.plat]; exact memory) fun j hj same => ?_
    have := distinct k (j + 2) (by omega) (by omega) same
    omega
  refine ⟨?record, g.memOk, fun only => ?bus, fun b memory other => ?outside, fun k hk ram memory other => ?fresh,
    fun k hk ram memory j hj before same => ?overwritten⟩
  case record => rw [g.record, h.record]
  case bus => rw [g.bus (by rw [h.plat]; exact only), h.bus only]
  case outside =>
    rw [g.outside b (by rw [h.plat]; exact memory) fun k hk => other (k + 2) (by omega),
      h.outside b memory fun k hk => other k (by omega)]
  case fresh =>
    rcases k with _ | _ | k
    · rw [first_stays 0 (by omega) (hasMemory_of_ram ram), h.fresh 0 (by omega) ram memory fun j _ => by omega]
    · rw [first_stays 1 (by omega) (hasMemory_of_ram ram), h.fresh 1 (by omega) ram memory fun j _ => by omega]
    · rw [g.fresh k (by omega) (by rw [h.plat]; exact ram) (by rw [h.plat]; exact memory)
        fun j hj before => other (j + 2) (by omega) (by omega)]
      exact h.outside _ memory fun j hj => other j (by omega) (by omega)
  case overwritten =>
    rcases k with _ | _ | k
    · omega
    · omega
    · have ram' : regionKind u.plat (dst (k + 2)) = .ram := by rw [h.plat]; exact ram
      have memory' : hasMemory u.plat (src (k + 2)) = true := by rw [h.plat]; exact memory
      by_cases early : j < 2
      · have copied := g.fresh k (by omega) ram' memory' fun i hi _ clash => by
          have := distinct j (i + 2) hj (by omega) (same.symm.trans clash)
          omega
        rw [copied, same, first_stays j early (by rw [← same]; exact memory)]
      · obtain ⟨i, rfl⟩ := Nat.exists_eq_add_of_le' (Nat.le_of_not_lt early)
        exact g.overwritten k (by omega) ram' memory' i (by omega) (by omega) same

/-! ### One step -/

/-- The last byte of an odd count: read in a word whose other byte is not used (R241, R242). -/
theorem BlockCopied.byte {s : State} (hs : s.MemOk) {src dst : Nat → Addr} (a : Addr) {v : Byte}
    (hv : hasMemory s.plat (src 0) = true → v = s.read8 (src 0)) :
    BlockCopied s ((s.after16 a).write8 (dst 0) v) src dst 1 where
  record := rfl
  memOk := State.write8_memOk (s := s.after16 a) _ _ hs
  bus only := by
    rw [State.write8_bus, State.after16_bus, State.after16_plat, Bus.afterRead16_of_memoryOnly _ only,
      Bus.afterWrite8_of_memoryOnly _ only]
  outside b memory other := by
    rw [State.read8_write8 (s.after16 a) _ _ _ hs memory, if_neg fun ⟨same, _⟩ => other 0 Nat.one_pos same.symm]
    exact State.read8_congr rfl rfl memory
  fresh k hk ram memory _ := by
    obtain rfl := Nat.lt_one_iff.mp hk
    rw [State.read8_write8 (s.after16 a) _ _ _ hs (hasMemory_of_ram ram), if_pos ⟨rfl, ram⟩, hv memory]
  overwritten k hk _ _ j _ before := by omega

/-- A step of a word from `a` to `c`: whichever of the two bytes comes first in the block. -/
theorem BlockCopied.word {s : State} (hs : s.MemOk) {src dst : Nat → Addr} {a c : Addr}
    (low : ∃ k, k < 2 ∧ dst k = c) (high : ∃ k, k < 2 ∧ dst k = c + 1#24)
    (places : ∀ k, k < 2 → src k = a ∧ dst k = c ∨ src k = a + 1#24 ∧ dst k = c + 1#24) :
    BlockCopied s ((s.after16 a).write16 c (s.read16 a)) src dst 2 where
  record := rfl
  memOk := State.write16_memOk (s := s.after16 a) _ _ hs
  bus only := by
    rw [State.write16_bus, State.after16_bus, State.after16_plat, Bus.afterRead16_of_memoryOnly _ only,
      Bus.afterWrite16_of_memoryOnly _ only]
  outside b memory other := by
    obtain ⟨i, hi, low⟩ := low
    obtain ⟨j, hj, high⟩ := high
    rw [State.read8_write16 (s.after16 a) _ _ _ hs memory, if_neg fun ⟨same, _⟩ => other j hj (same.symm.trans high.symm),
      if_neg fun ⟨same, _⟩ => other i hi (same.symm.trans low.symm)]
    exact State.read8_congr rfl rfl memory
  fresh k hk ram memory _ := by
    rw [State.read8_write16 (s.after16 a) _ _ _ hs (hasMemory_of_ram ram)]
    obtain ⟨src_eq, dst_eq⟩ | ⟨src_eq, dst_eq⟩ := places k hk
    · rw [src_eq] at memory ⊢
      rw [dst_eq] at ram ⊢
      rw [if_neg fun ⟨same, _⟩ => absurd same (by bv_omega), if_pos ⟨rfl, ram⟩, loByte_read16 s memory]
    · rw [src_eq] at memory ⊢
      rw [dst_eq] at ram ⊢
      rw [if_pos ⟨rfl, ram⟩, hiByte_read16 s memory]
  overwritten k hk _ _ j _ before := by omega

/-! ### The steps upwards -/

/-- The addresses from offset `first` of a bank upwards. -/
def upFrom (bank : Byte) (first : Nat) (k : Nat) : Addr := addrOfNat (bank.toNat * 65536 + first + k)

theorem upFrom_add (bank : Byte) (first : Nat) (m : Nat) : upFrom bank (first + m) = fun k => upFrom bank first (k + m) := by
  funext k
  exact congrArg addrOfNat (by omega)

theorem upFrom_toNat {bank : Byte} {first k : Nat} (h : first + k < 65536) :
    (upFrom bank first k).toNat = bank.toNat * 65536 + first + k := by
  have := bank.isLt
  rw [upFrom, addrOfNat, BitVec.toNat_ofNat]
  omega

theorem mkAddr_ofNat (bank : Byte) {offset : Nat} (h : offset < 65536) :
    mkAddr bank (BitVec.ofNat 16 offset) = upFrom bank offset 0 := by
  apply BitVec.eq_of_toNat_eq
  rw [upFrom_toNat h, mkAddr_toNat, BitVec.toNat_ofNat, Nat.mod_eq_of_lt h, Nat.add_zero]

theorem upFrom_succ (bank : Byte) (first k : Nat) : upFrom bank first k + 1#24 = upFrom bank first (k + 1) := by
  rw [upFrom, upFrom, addrOfNat, addrOfNat, ← Nat.add_assoc]
  exact (BitVec.ofNat_add _ 1).symm

theorem word_ofNat_add_two (n : Nat) : BitVec.ofNat 16 n + 2#16 = BitVec.ofNat 16 (n + 2) := by rw [BitVec.ofNat_add]

theorem BlockCopied.uninterruptible {s t : State} {src dst : Nat → Addr} {n : Nat} (h : BlockCopied s t src dst n)
    (hi : s.plat.blockMoveInterruptible = false ∨ s.inputs = []) :
    t.plat.blockMoveInterruptible = false ∨ t.inputs = [] := by
  rw [h.record]; exact hi

/-- The steps of MVN where no request ends them early (R241, R243, R246). -/
theorem moveUp_blockCopied (ss dd : Byte) {n : Nat} {s : State} {x y : Nat} (hs : s.MemOk)
    (hi : s.plat.blockMoveInterruptible = false ∨ s.inputs = []) (hx : x + n ≤ 65536) (hy : y + n ≤ 65536) :
    ∃ t, moveUp ss dd n s (BitVec.ofNat 16 x) (BitVec.ofNat 16 y) =
      { s := t, x := BitVec.ofNat 16 (x + n), y := BitVec.ofNat 16 (y + n), left := 0, interrupted := false } ∧
      BlockCopied s t (upFrom ss x) (upFrom dd y) n := by
  induction n using Nat.twoStepInduction generalizing s x y with
  | zero => exact ⟨s, rfl, .nothing hs _ _⟩
  | one =>
    have src_eq := mkAddr_ofNat ss (offset := x) (by omega)
    have dst_eq := mkAddr_ofNat dd (offset := y) (by omega)
    refine ⟨_, by rw [moveUp, BitVec.ofNat_add, BitVec.ofNat_add], ?_⟩
    rw [src_eq, dst_eq]
    exact .byte hs (src := upFrom ss x) (dst := upFrom dd y) _ fun memory => loByte_read16 s memory
  | more n ih _ =>
    have src_eq := mkAddr_ofNat ss (offset := x) (by omega)
    have dst_eq := mkAddr_ofNat dd (offset := y) (by omega)
    have first : BlockCopied s ((s.after16 (mkAddr ss (BitVec.ofNat 16 x))).write16 (mkAddr dd (BitVec.ofNat 16 y))
        (s.read16 (mkAddr ss (BitVec.ofNat 16 x)))) (upFrom ss x) (upFrom dd y) 2 := by
      rw [src_eq, dst_eq]
      refine .word hs ⟨0, by omega, rfl⟩ ⟨1, by omega, (upFrom_succ dd y 0).symm⟩ fun k hk => ?_
      rcases k with _ | _ | k
      · exact .inl ⟨rfl, rfl⟩
      · exact .inr ⟨(upFrom_succ ss x 0).symm, (upFrom_succ dd y 0).symm⟩
      · omega
    obtain ⟨t, steps, copied⟩ := ih (x := x + 2) (y := y + 2) first.memOk (first.uninterruptible hi) (by omega) (by omega)
    rw [upFrom_add, upFrom_add] at copied
    refine ⟨t, ?_, first.append copied fun j k hj hk same => ?_⟩
    · rw [moveUp, State.afterStep_same _ n (first.uninterruptible hi)]
      simp only [word_ofNat_add_two]
      rw [steps, Nat.add_assoc x, Nat.add_assoc y, Nat.add_comm 2 n]
    · have := congrArg BitVec.toNat same
      rw [upFrom_toNat (by omega), upFrom_toNat (by omega)] at this
      omega

/-! ### The steps downwards -/

/-- The addresses from offset `top - 1` of a bank downwards; `top` may be the end of the bank. -/
def downFrom (bank : Byte) (top : Nat) (k : Nat) : Addr := addrOfNat (bank.toNat * 65536 + top - 1 - k)

theorem downFrom_sub {bank : Byte} {top m : Nat} (h : m ≤ top) :
    downFrom bank (top - m) = fun k => downFrom bank top (k + m) := by
  funext k
  exact congrArg addrOfNat (by omega)

theorem downFrom_toNat {bank : Byte} {top k : Nat} (h : k < top) (ht : top ≤ 65536) :
    (downFrom bank top k).toNat = bank.toNat * 65536 + (top - 1 - k) := by
  have := bank.isLt
  rw [downFrom, addrOfNat, BitVec.toNat_ofNat]
  omega

theorem mkAddr_ofNat_sub_one (bank : Byte) {top : Nat} (h : 1 ≤ top) (ht : top ≤ 65536) :
    mkAddr bank (BitVec.ofNat 16 top - 1#16) = downFrom bank top 0 := by
  apply BitVec.eq_of_toNat_eq
  rw [downFrom_toNat h ht, mkAddr_toNat, BitVec.toNat_sub, BitVec.toNat_ofNat, BitVec.toNat_ofNat]
  omega

theorem mkAddr_ofNat_sub_two (bank : Byte) {top : Nat} (h : 2 ≤ top) (ht : top ≤ 65536) :
    mkAddr bank (BitVec.ofNat 16 top - 1#16 - 1#16) = downFrom bank top 1 := by
  apply BitVec.eq_of_toNat_eq
  rw [downFrom_toNat h ht, mkAddr_toNat, BitVec.toNat_sub, BitVec.toNat_sub, BitVec.toNat_ofNat, BitVec.toNat_ofNat]
  omega

theorem downFrom_one_add_one (bank : Byte) {top : Nat} (h : 2 ≤ top) (ht : top ≤ 65536) :
    downFrom bank top 1 + 1#24 = downFrom bank top 0 := by
  apply BitVec.eq_of_toNat_eq
  have := bank.isLt
  rw [BitVec.toNat_add, downFrom_toNat h ht, downFrom_toNat (by omega) ht, BitVec.toNat_ofNat]
  omega

theorem word_ofNat_sub_two {top : Nat} (h : 2 ≤ top) :
    BitVec.ofNat 16 top - 1#16 - 2#16 = BitVec.ofNat 16 (top - 2) - 1#16 := by
  apply BitVec.eq_of_toNat_eq
  simp only [BitVec.toNat_sub, BitVec.toNat_ofNat]
  omega

/-- The steps of MVP where no request ends them early (R242, R243, R246). -/
theorem moveDown_blockCopied (ss dd : Byte) {n : Nat} {s : State} {x y : Nat} (hs : s.MemOk)
    (hi : s.plat.blockMoveInterruptible = false ∨ s.inputs = []) (hx : n ≤ x) (hy : n ≤ y) (hx' : x ≤ 65536)
    (hy' : y ≤ 65536) :
    ∃ t, moveDown ss dd n s (BitVec.ofNat 16 x - 1#16) (BitVec.ofNat 16 y - 1#16) =
      { s := t, x := BitVec.ofNat 16 (x - n) - 1#16, y := BitVec.ofNat 16 (y - n) - 1#16, left := 0, interrupted := false } ∧
      BlockCopied s t (downFrom ss x) (downFrom dd y) n := by
  induction n using Nat.twoStepInduction generalizing s x y with
  | zero => exact ⟨s, rfl, .nothing hs _ _⟩
  | one =>
    have src_eq := mkAddr_ofNat_sub_one ss hx hx'
    have dst_eq := mkAddr_ofNat_sub_one dd hy hy'
    have back {z : Nat} (hz : 1 ≤ z) : BitVec.ofNat 16 z - 1#16 = BitVec.ofNat 16 (z - 1) := by
      apply BitVec.eq_of_toNat_eq
      simp only [BitVec.toNat_sub, BitVec.toNat_ofNat]
      omega
    refine ⟨_, by rw [moveDown, ← back hx, ← back hy], ?_⟩
    rw [src_eq, dst_eq]
    refine .byte hs (src := downFrom ss x) (dst := downFrom dd y) _ fun memory => ?_
    have succ : downFrom ss x 0 - 1#24 + 1#24 = downFrom ss x 0 := BitVec.sub_add_cancel _ _
    rw [hiByte_read16 s (by rw [succ]; exact memory), succ]
  | more n ih _ =>
    have src_eq := mkAddr_ofNat_sub_two ss (top := x) (by omega) hx'
    have dst_eq := mkAddr_ofNat_sub_two dd (top := y) (by omega) hy'
    have src_succ := downFrom_one_add_one ss (top := x) (by omega) hx'
    have dst_succ := downFrom_one_add_one dd (top := y) (by omega) hy'
    have first : BlockCopied s ((s.after16 (mkAddr ss (BitVec.ofNat 16 x - 1#16 - 1#16))).write16
        (mkAddr dd (BitVec.ofNat 16 y - 1#16 - 1#16)) (s.read16 (mkAddr ss (BitVec.ofNat 16 x - 1#16 - 1#16))))
        (downFrom ss x) (downFrom dd y) 2 := by
      rw [src_eq, dst_eq]
      refine .word hs ⟨1, by omega, rfl⟩ ⟨0, by omega, dst_succ.symm⟩ fun k hk => ?_
      rcases k with _ | _ | k
      · exact .inr ⟨src_succ.symm, dst_succ.symm⟩
      · exact .inl ⟨rfl, rfl⟩
      · omega
    obtain ⟨t, steps, copied⟩ := ih (x := x - 2) (y := y - 2) first.memOk (first.uninterruptible hi) (by omega) (by omega)
      (by omega) (by omega)
    rw [downFrom_sub (by omega), downFrom_sub (by omega)] at copied
    refine ⟨t, ?_, first.append copied fun j k hj hk same => ?_⟩
    · rw [moveDown, State.afterStep_same _ n (first.uninterruptible hi)]
      simp only [word_ofNat_sub_two (show 2 ≤ x by omega), word_ofNat_sub_two (show 2 ≤ y by omega)]
      rw [steps, Nat.sub_sub, Nat.sub_sub, Nat.add_comm 2 n]
    · have := congrArg BitVec.toNat same
      rw [downFrom_toNat (by omega) hy', downFrom_toNat (by omega) hy'] at this
      omega

/-! ## The whole transfer -/

/-- The end of a transfer that no request ended early (R244). -/
def finished (t : State) (x y : Word) (dd : Byte) : State :=
  ({ s := t, x := x, y := y, left := 0, interrupted := false } : BlockEnd).finish dd

theorem finished_read8 (t : State) (x y : Word) (dd : Byte) {b : Addr} (memory : hasMemory t.plat b = true) :
    (finished t x y dd).read8 b = t.read8 b := State.read8_congr rfl rfl memory

/-- The registers after a whole transfer, and what differs from the state before it (R241, R242, R244, R245). -/
theorem BlockCopied.finished_registers {s t : State} {src dst : Nat → Addr} {n : Nat} (h : BlockCopied s t src dst n)
    (x y : Word) (dd : Byte) :
    finished t x y dd = { s with
      a := (finished t x y dd).a, x := (finished t x y dd).x, y := (finished t x y dd).y, dt := dd
      mem := (finished t x y dd).mem, bus := (finished t x y dd).bus } ∧
    (MemoryOnly s.plat → (finished t x y dd).bus = s.bus) ∧ LowBits s.wm s.a (finished t x y dd).a 65535 ∧
    LowBits s.wx s.x (finished t x y dd).x x.toNat ∧ LowBits s.wx s.y (finished t x y dd).y y.toNat := by
  have record := h.record
  have bus := h.bus
  refine ⟨?_, bus, ?_, ?_, ?_⟩
  · rw [record]; rfl
  · rw [record]; exact merge_lowBits s.wm s.a 0xFFFF#16
  · rw [record]; exact merge_lowBits s.wx s.x x
  · rw [record]; exact merge_lowBits s.wx s.y y

/-- The bytes after a whole transfer. -/
theorem BlockCopied.finished_bytes {s t : State} {src dst : Nat → Addr} {n : Nat} (h : BlockCopied s t src dst n)
    (x y : Word) (dd : Byte) :
    (∀ b, hasMemory s.plat b = true → (∀ k, k < n → b ≠ dst k) → (finished t x y dd).read8 b = s.read8 b) ∧
    ∀ k, k < n → regionKind s.plat (dst k) = .ram → hasMemory s.plat (src k) = true →
      ((∀ j, j < n → j / 2 < k / 2 → src k ≠ dst j) → (finished t x y dd).read8 (dst k) = s.read8 (src k)) ∧
      ∀ j, j < n → j / 2 < k / 2 → src k = dst j → (finished t x y dd).read8 (dst k) = (finished t x y dd).read8 (dst j) := by
  refine ⟨fun b memory other => ?_, fun k hk ram memory => ⟨fun other => ?_, fun j hj before same => ?_⟩⟩
  · rw [finished_read8 t x y dd (by rw [h.plat]; exact memory), h.outside b memory other]
  · rw [finished_read8 t x y dd (by rw [h.plat]; exact hasMemory_of_ram ram), h.fresh k hk ram memory other]
  · rw [finished_read8 t x y dd (by rw [h.plat]; exact hasMemory_of_ram ram),
      finished_read8 t x y dd (by rw [h.plat, ← same]; exact memory), h.overwritten k hk ram memory j hj before same, same]

theorem State.indexX_eq (s : State) : s.indexX = BitVec.ofNat 16 s.xNat := by
  rw [← s.indexX_toNat, BitVec.ofNat_toNat, BitVec.setWidth_eq]

theorem State.indexY_eq (s : State) : s.indexY = BitVec.ofNat 16 s.yNat := by
  rw [← s.indexY_toNat, BitVec.ofNat_toNat, BitVec.setWidth_eq]

theorem two_pow_bits_le (w : Width) : 2 ^ w.bits ≤ 65536 := by cases w <;> decide

/-- A number and its residue modulo 2^16 have the same low bits. -/
theorem mod_two_pow_bits_congr (w : Width) {n v : Nat} (h : n % 65536 = v % 65536) : n % 2 ^ w.bits = v % 2 ^ w.bits := by
  cases w
  · simp only [Width.bits, Nat.reducePow]; omega
  · simp only [Width.bits, Nat.reducePow]; exact h

/-- Addresses of the two blocks that coincide are in one bank, at the same offset. -/
theorem bank_offset_inj {n1 n2 : Byte} {i j : Nat} (hi : i < 65536) (hj : j < 65536)
    (h : n1.toNat * 65536 + i = n2.toNat * 65536 + j) : n1 = n2 ∧ i = j := by
  have banks : n1.toNat = n2.toNat := by omega
  exact ⟨BitVec.eq_of_toNat_eq banks, by omega⟩

/-- Settles O30: the steps of `moveUp_blockCopied`, with the place of every address in its bank. -/
theorem moveBlockUp : Obligations.MoveBlockUp := by
  intro n1 n2 s hs hi hx hy fitsX fitsY
  have small := two_pow_bits_le s.wx
  have stays : s.staysBelow = true := s.staysBelow_iff.mpr ⟨fitsX, fitsY⟩
  obtain ⟨t, steps, copied⟩ := moveUp_blockCopied n2 n1 (n := lowNat s.wm s.a) (x := s.xNat) (y := s.yNat) hs hi
    (by omega) (by omega)
  have next : exec (.mvn n1 n2) s =
      .next (finished t (BitVec.ofNat 16 (s.xNat + lowNat s.wm s.a)) (BitVec.ofNat 16 (s.yNat + lowNat s.wm s.a)) n1) := by
    rw [exec_mvn, State.hidesIndex_of_range hx hy, stays, s.blockCount_eq, s.indexX_eq, s.indexY_eq, steps]
    rfl
  generalize lowNat s.wm s.a = count at *
  obtain ⟨record, bus, a, x, y⟩ := copied.finished_registers
    (BitVec.ofNat 16 (s.xNat + count)) (BitVec.ofNat 16 (s.yNat + count)) n1
  obtain ⟨outside, inside⟩ := copied.finished_bytes
    (BitVec.ofNat 16 (s.xNat + count)) (BitVec.ofNat 16 (s.yNat + count)) n1
  have meet {j k : Nat} (hj : j < count) (hk : k < count) (same : upFrom n2 s.xNat k = upFrom n1 s.yNat j) :
      n2 = n1 ∧ s.xNat + k = s.yNat + j := by
    have same := congrArg BitVec.toNat same
    rw [upFrom_toNat (by omega), upFrom_toNat (by omega), Nat.add_assoc, Nat.add_assoc] at same
    exact bank_offset_inj (by omega) (by omega) same
  refine ⟨_, next, record, bus, a, x.congr (mod_two_pow_bits_congr _ ?_), y.congr (mod_two_pow_bits_congr _ ?_), outside,
    fun k hk ram memory => ⟨fun apart => ?apart, fun d bank offset pos less => ?overlap⟩⟩
  · rw [BitVec.toNat_ofNat]; exact Nat.mod_mod _ _
  · rw [BitVec.toNat_ofNat]; exact Nat.mod_mod _ _
  case apart =>
    refine (inside k hk ram memory).1 fun j hj before same => ?_
    obtain ⟨bank, offset⟩ := meet hj hk same
    obtain other | below | above := apart
    · exact other bank.symm
    · omega
    · omega
  case overlap =>
    split
    case isTrue early =>
      refine (inside k hk ram memory).2 (k - d) (by omega) early.2 ?_
      rw [bank]
      exact congrArg addrOfNat (by omega)
    case isFalse late =>
      refine (inside k hk ram memory).1 fun j hj before same => ?_
      obtain ⟨-, offset'⟩ := meet hj hk same
      exact late ⟨by omega, by omega⟩

theorem word_ofNat_add_one_sub_one (n : Nat) : BitVec.ofNat 16 (n + 1) - 1#16 = BitVec.ofNat 16 n := by
  rw [BitVec.ofNat_add, BitVec.add_sub_cancel]

theorem downFrom_succ_top (bank : Byte) (first k : Nat) :
    downFrom bank (first + 1) k = addrOfNat (bank.toNat * 65536 + first - k) := by
  rw [downFrom, ← Nat.add_assoc, Nat.add_sub_cancel]

/-- Settles O31: the steps of `moveDown_blockCopied`, with the place of every address in its bank. -/
theorem moveBlockDown : Obligations.MoveBlockDown := by
  intro n1 n2 s hs hi hx hy fitsX fitsY
  have x_lt : s.xNat < 65536 := by rw [← hx]; exact s.x.isLt
  have y_lt : s.yNat < 65536 := by rw [← hy]; exact s.y.isLt
  have stays : s.staysAbove = true := s.staysAbove_iff.mpr ⟨fitsX, fitsY⟩
  obtain ⟨t, steps, copied⟩ := moveDown_blockCopied n2 n1 (n := lowNat s.wm s.a) (x := s.xNat + 1) (y := s.yNat + 1) hs hi
    fitsX fitsY x_lt y_lt
  have next : exec (.mvp n1 n2) s = .next (finished t (BitVec.ofNat 16 (s.xNat + 1 - lowNat s.wm s.a) - 1#16)
      (BitVec.ofNat 16 (s.yNat + 1 - lowNat s.wm s.a) - 1#16) n1) := by
    rw [word_ofNat_add_one_sub_one, word_ofNat_add_one_sub_one] at steps
    rw [exec_mvp, State.hidesIndex_of_range hx hy, stays, s.blockCount_eq, s.indexX_eq, s.indexY_eq, steps]
    rfl
  generalize lowNat s.wm s.a = count at *
  obtain ⟨record, bus, a, x, y⟩ := copied.finished_registers
    (BitVec.ofNat 16 (s.xNat + 1 - count) - 1#16) (BitVec.ofNat 16 (s.yNat + 1 - count) - 1#16) n1
  obtain ⟨outside, inside⟩ := copied.finished_bytes
    (BitVec.ofNat 16 (s.xNat + 1 - count) - 1#16) (BitVec.ofNat 16 (s.yNat + 1 - count) - 1#16) n1
  have meet {j k : Nat} (hj : j < count) (hk : k < count) (same : downFrom n2 (s.xNat + 1) k = downFrom n1 (s.yNat + 1) j) :
      n2 = n1 ∧ s.xNat - k = s.yNat - j := by
    have same := congrArg BitVec.toNat same
    rw [downFrom_toNat (by omega) (by omega), downFrom_toNat (by omega) (by omega)] at same
    exact bank_offset_inj (by omega) (by omega) same
  simp only [downFrom_succ_top] at outside inside meet
  refine ⟨_, next, record, bus, a, x.congr (mod_two_pow_bits_congr _ ?_), y.congr (mod_two_pow_bits_congr _ ?_), outside,
    fun k hk ram memory => ⟨fun apart => ?apart, fun d bank offset pos less => ?overlap⟩⟩
  · simp only [BitVec.toNat_sub, BitVec.toNat_ofNat]; omega
  · simp only [BitVec.toNat_sub, BitVec.toNat_ofNat]; omega
  case apart =>
    refine (inside k hk ram memory).1 fun j hj before same => ?_
    obtain ⟨bank, offset⟩ := meet hj hk same
    obtain other | above | below := apart
    · exact other bank.symm
    · omega
    · omega
  case overlap =>
    split
    case isTrue early =>
      refine (inside k hk ram memory).2 (k - d) (by omega) early.2 ?_
      rw [bank]
      exact congrArg addrOfNat (by omega)
    case isFalse late =>
      refine (inside k hk ram memory).1 fun j hj before same => ?_
      obtain ⟨-, offset'⟩ := meet hj hk same
      exact late ⟨by omega, by omega⟩

/-! ## The interruption -/

/-- An acceptable request after a step that is not the last ends the transfer there (R248, log 14). -/
theorem State.afterStep_interrupted {u : State} {left : Nat} {r : Request} (more : left ≠ 0)
    (enabled : u.plat.blockMoveInterruptible = true) (no_reset : u.arriving.reset = none)
    (chosen : choose u.plat u.ps u.arriving.pending = some r) : u.afterStep left = none := by
  simp only [State.afterStep, more, if_false, State.betweenSteps, enabled, if_true, no_reset, chosen]

/-- The end of a transfer that a request ended after a step to `u`. -/
def suspended (u : State) (x y : Word) (left : Nat) : State :=
  ({ s := u, x := x, y := y, left := left, interrupted := true } : BlockEnd).suspend

theorem suspended_next (u : State) (x y : Word) (left : Nat) : (suspended u x y left).next = u.next - 3#24 :=
  mkAddr_bankOf_offsetOf _

theorem suspended_registers {s u : State} (record : u = { s with mem := u.mem, bus := u.bus }) (x y : Word) {left : Nat}
    (h : left < 65536) : LowBits s.wm s.a (suspended u x y left).a left ∧
    LowBits s.wx s.x (suspended u x y left).x x.toNat ∧ LowBits s.wx s.y (suspended u x y left).y y.toNat := by
  rw [record]
  have count := merge_lowBits s.wm s.a (BitVec.ofNat 16 left)
  rw [BitVec.toNat_ofNat, Nat.mod_eq_of_lt h] at count
  exact ⟨count, merge_lowBits s.wx s.x x, merge_lowBits s.wx s.y y⟩

/-- Settles O32: a block of more than two bytes has a boundary after its first step. -/
theorem moveBlockInterrupted : Obligations.MoveBlockInterrupted := by
  intro n1 n2 s r enabled no_reset chosen hx hy long
  have x_eq : s.indexX = s.x := BitVec.eq_of_toNat_eq (by rw [s.indexX_toNat, hx])
  have y_eq : s.indexY = s.y := BitVec.eq_of_toNat_eq (by rw [s.indexY_toNat, hy])
  have shows := State.hidesIndex_of_range hx hy
  obtain ⟨left, count⟩ := Nat.exists_eq_add_of_le' (Nat.le_of_lt long)
  have left_lt : left < 65536 := by have := lowNat_le s.wm s.a; omega
  have more : left ≠ 0 := by omega
  rw [← hx, ← hy]
  refine ⟨fun fitsX fitsY => ?up, fun fitsX fitsY => ?down⟩
  case up =>
    have stays : s.staysBelow = true := s.staysBelow_iff.mpr (by rw [← hx, ← hy]; exact ⟨fitsX, fitsY⟩)
    have stop := State.afterStep_interrupted
      (u := (s.after16 (mkAddr n2 s.x)).write16 (mkAddr n1 s.y) (s.read16 (mkAddr n2 s.x))) more enabled no_reset chosen
    obtain ⟨acc, x, y⟩ := suspended_registers (s := s)
      (u := (s.after16 (mkAddr n2 s.x)).write16 (mkAddr n1 s.y) (s.read16 (mkAddr n2 s.x))) rfl
      (s.x + 2#16) (s.y + 2#16) left_lt
    rw [count, Nat.add_sub_cancel]
    refine ⟨suspended _ (s.x + 2#16) (s.y + 2#16) left, _, rfl, ?next, rfl, suspended_next _ _ _ _, acc,
      x.congr (mod_two_pow_bits_congr _ ?_), y.congr (mod_two_pow_bits_congr _ ?_)⟩
    case next =>
      rw [exec_mvn, shows, stays, s.blockCount_eq, count, x_eq, y_eq, moveUp, stop]
      rfl
    · rw [BitVec.toNat_add]; exact Nat.mod_mod _ _
    · rw [BitVec.toNat_add]; exact Nat.mod_mod _ _
  case down =>
    have stays : s.staysAbove = true := s.staysAbove_iff.mpr (by rw [← hx, ← hy]; exact ⟨fitsX, fitsY⟩)
    have stop := State.afterStep_interrupted (u := (s.after16 (mkAddr n2 (s.x - 1#16))).write16 (mkAddr n1 (s.y - 1#16))
      (s.read16 (mkAddr n2 (s.x - 1#16)))) more enabled no_reset chosen
    obtain ⟨acc, x, y⟩ := suspended_registers (s := s) (u := (s.after16 (mkAddr n2 (s.x - 1#16))).write16
      (mkAddr n1 (s.y - 1#16)) (s.read16 (mkAddr n2 (s.x - 1#16)))) rfl (s.x - 2#16) (s.y - 2#16) left_lt
    rw [count, Nat.add_sub_cancel]
    refine ⟨suspended _ (s.x - 2#16) (s.y - 2#16) left, _, rfl, ?next, rfl, suspended_next _ _ _ _, acc,
      x.congr (congrArg (· % _) ?_), y.congr (congrArg (· % _) ?_)⟩
    case next =>
      rw [exec_mvp, shows, stays, s.blockCount_eq, count, x_eq, y_eq, moveDown, stop]
      rfl
    · exact BitVec.toNat_sub_of_le (by rw [BitVec.le_def, BitVec.toNat_ofNat]; omega)
    · exact BitVec.toNat_sub_of_le (by rw [BitVec.le_def, BitVec.toNat_ofNat]; omega)

end Sys2Proof.Machine
end
